-- ==== Sys2Proof/Word.lean ====
section
/-! DEFINITION. The widths the block's ports carry (00_scope.md R6) and the two records of its date ports
(10_state.md R26, R27). No rule of the block computes modulo a width: arithmetic is on Nat and Int (R6). -/

namespace Sys2Proof

/-- One byte: bits 7 (most significant) down to 0 (R6). -/
abbrev Byte := BitVec 8

/-- A 16-bit port field (30_encoding.md R63: V and year). -/
abbrev Half := BitVec 16

/-- A BCD nibble as BCD.DEC's operand carries it (30_encoding.md R63: TENS and ONES). -/
abbrev Nibble := BitVec 4

/-- 10_state.md R26: the CalendarTime record, in its field order, at its port widths. -/
structure CalendarTime where
  second  : Byte
  minute  : Byte
  hour    : Byte
  weekday : Byte
  day     : Byte
  month   : Byte
  year    : Half
  deriving DecidableEq, Repr

/-- 10_state.md R27: the PackedDateRegisters record, P[0] to P[6], one byte for each chip register 0x00 to 0x06. -/
structure PackedDate where
  seconds      : Byte
  minutes      : Byte
  hours        : Byte
  weekday      : Byte
  date         : Byte
  monthCentury : Byte
  year         : Byte
  deriving DecidableEq, Repr

end Sys2Proof
end

