-- ==== Sys2Proof/Syntax.lean ====
section
/-! DEFINITION. The six operations of the block (00_scope.md R3), one constructor for each row of
spec/opcode_table.json, with the operands of its request format (30_encoding.md R62, R63). -/

namespace Sys2Proof

/-- One block request: an operation with the operands its frame carries. The 250 undefined OP values are no
operation: the decoder rejects them (R66). -/
inductive Instr where
  /-- 40_bcd.md R100, FMT_V: V is the integer that the frame's 16-bit pattern stands for (R64). -/
  | bcdEnc (v : Int)
  /-- 40_bcd.md R101, FMT_N: the two 4-bit digits. -/
  | bcdDec (tens ones : Nibble)
  /-- 41_datetime.md R120, FMT_P7: the seven register bytes. -/
  | dtDec (p : PackedDate)
  /-- 41_datetime.md R134, FMT_CT: the calendar record. -/
  | dtEnc (t : CalendarTime)
  /-- 42_field.md R160, FMT_BM: the register byte and the field mask. -/
  | fldGet (b m : Byte)
  /-- 42_field.md R161, FMT_BMV: the register byte, the field mask and the new field value. -/
  | fldSet (b m v : Byte)
  deriving DecidableEq, Repr

end Sys2Proof
end

