-- ==== Sys2Proof/WellFormed.lean ====
section
/-! DEFINITION. Which instructions a request frame can carry. Only V has a type wider than its port
(30_encoding.md R63, R64; 00_scope.md R9); every other operand's type is its port's width. -/

namespace Sys2Proof

/-- 00_scope.md R9, 30_encoding.md R70: the V port carries -32768 to 32767. -/
def vInPort (v : Int) : Bool := decide (-32768 ≤ v) && decide (v ≤ 32767)

/-- The operands fit their ports. -/
def Instr.wf : Instr → Bool
  | .bcdEnc v => vInPort v
  | .bcdDec _ _ => true
  | .dtDec _ => true
  | .dtEnc _ => true
  | .fldGet _ _ => true
  | .fldSet _ _ _ => true

/-- A well-formed instruction: one that some request frame carries. -/
abbrev Instr.WellFormed (i : Instr) : Prop := i.wf = true

end Sys2Proof
end

