-- ==== Sys2Proof/Decode.lean ====
section
/-! DEFINITION. The request decoder, total on any bytes, the encoder written from the same tables
(30_encoding.md R60 to R69), and the word view of a frame (R60, R62). -/

namespace Sys2Proof

/-- The six defined opcodes (30_encoding.md R65). -/
inductive Opcode where
  | bcdEnc | bcdDec | dtDec | dtEnc | fldGet | fldSet
  deriving DecidableEq, Repr

/-- 30_encoding.md R65: the OP byte of each operation. -/
def opcodeByte : Opcode → Byte
  | .bcdEnc => 0x01
  | .bcdDec => 0x02
  | .dtDec => 0x10
  | .dtEnc => 0x11
  | .fldGet => 0x20
  | .fldSet => 0x21

/-- 30_encoding.md R65, R66: OP is matched on all 8 bits; every other value is illegal. -/
def opcodeOf (op : Byte) : Option Opcode :=
  if op = 0x01 then some .bcdEnc
  else if op = 0x02 then some .bcdDec
  else if op = 0x10 then some .dtDec
  else if op = 0x11 then some .dtEnc
  else if op = 0x20 then some .fldGet
  else if op = 0x21 then some .fldSet
  else none

/-- 30_encoding.md R69: the request length in bytes that byte 0 fixes. -/
def frameLength (op : Byte) : Nat :=
  match opcodeOf op with
  | some .bcdEnc => 3
  | some .bcdDec => 2
  | some .dtDec => 8
  | some .dtEnc => 9
  | some .fldGet => 3
  | some .fldSet => 4
  | none => 1

/-- What the decoder reads from the bytes presented at the request port. -/
inductive Fetched where
  /-- One complete frame of a defined operation, and the bytes after it. -/
  | request (i : Instr) (rest : List Byte)
  /-- R66: the one-byte frame of an undefined OP, rejected by its byte, and the bytes after it. -/
  | illegal (op : Byte) (rest : List Byte)
  /-- R69: fewer bytes than the frame that byte 0 announces. -/
  | truncated
  deriving DecidableEq, Repr

/-- 20_memory.md R45(c), 30_encoding.md R64: a 16-bit port field is big-endian, high byte first. -/
def halfOf (hi lo : Byte) : Half := hi ++ lo

/-- The high byte of a 16-bit port field. -/
def highByte (h : Half) : Byte := h.extractLsb' 8 8

/-- The low byte of a 16-bit port field. -/
def lowByte (h : Half) : Byte := h.extractLsb' 0 8

/-- 30_encoding.md R64: V = sext_16({frame[1], frame[2]}). -/
def signedV (hi lo : Byte) : Int := (halfOf hi lo).toInt

/-- 30_encoding.md R62, FMT_N: TENS is bits 7:4 of byte 1. -/
def tensOf (b : Byte) : Nibble := b.extractLsb' 4 4

/-- 30_encoding.md R62, FMT_N: ONES is bits 3:0 of byte 1. -/
def onesOf (b : Byte) : Nibble := b.extractLsb' 0 4

/-- FMT_V (R62), after OP. -/
def decodeV : List Byte → Fetched
  | hi :: lo :: rest => .request (.bcdEnc (signedV hi lo)) rest
  | _ => .truncated

/-- FMT_N (R62), after OP. -/
def decodeN : List Byte → Fetched
  | b :: rest => .request (.bcdDec (tensOf b) (onesOf b)) rest
  | _ => .truncated

/-- FMT_P7 (R62), after OP. -/
def decodeP7 : List Byte → Fetched
  | p0 :: p1 :: p2 :: p3 :: p4 :: p5 :: p6 :: rest => .request (.dtDec ⟨p0, p1, p2, p3, p4, p5, p6⟩) rest
  | _ => .truncated

/-- FMT_CT (R62), after OP. -/
def decodeCT : List Byte → Fetched
  | s :: mi :: h :: w :: d :: mo :: yh :: yl :: rest => .request (.dtEnc ⟨s, mi, h, w, d, mo, halfOf yh yl⟩) rest
  | _ => .truncated

/-- FMT_BM (R62), after OP. -/
def decodeBM : List Byte → Fetched
  | b :: m :: rest => .request (.fldGet b m) rest
  | _ => .truncated

/-- FMT_BMV (R62), after OP. -/
def decodeBMV : List Byte → Fetched
  | b :: m :: v :: rest => .request (.fldSet b m v) rest
  | _ => .truncated

/-- 30_encoding.md R60 to R69: OP alone fixes the format; only OP can make a frame illegal (R68). -/
def decode : List Byte → Fetched
  | [] => .truncated
  | op :: bs =>
    match opcodeOf op with
    | some .bcdEnc => decodeV bs
    | some .bcdDec => decodeN bs
    | some .dtDec => decodeP7 bs
    | some .dtEnc => decodeCT bs
    | some .fldGet => decodeBM bs
    | some .fldSet => decodeBMV bs
    | none => .illegal op bs

/-- The opcode of an instruction. -/
def Instr.opcode : Instr → Opcode
  | .bcdEnc _ => .bcdEnc
  | .bcdDec _ _ => .bcdDec
  | .dtDec _ => .dtDec
  | .dtEnc _ => .dtEnc
  | .fldGet _ _ => .fldGet
  | .fldSet _ _ _ => .fldSet

/-- P[0] to P[6] in register order (10_state.md R27). -/
def PackedDate.bytes (p : PackedDate) : List Byte :=
  [p.seconds, p.minutes, p.hours, p.weekday, p.date, p.monthCentury, p.year]

/-- The CalendarTime fields in frame order, year big-endian (30_encoding.md R62, R67). -/
def CalendarTime.bytes (t : CalendarTime) : List Byte :=
  [t.second, t.minute, t.hour, t.weekday, t.day, t.month, highByte t.year, lowByte t.year]

/-- 30_encoding.md R62: the operand bytes of a frame. -/
def operandBytes : Instr → List Byte
  | .bcdEnc v => [highByte (BitVec.ofInt 16 v), lowByte (BitVec.ofInt 16 v)]
  | .bcdDec t o => [(t ++ o : BitVec 8)]
  | .dtDec p => p.bytes
  | .dtEnc t => t.bytes
  | .fldGet b m => [b, m]
  | .fldSet b m v => [b, m, v]

/-- 30_encoding.md R62, R65: the request frame of an instruction. -/
def encode (i : Instr) : List Byte := opcodeByte i.opcode :: operandBytes i

/-- 30_encoding.md R60: a frame of n bytes as one 8n-bit number, byte 0 in the top bits. -/
def frameWord (bs : List Byte) : Nat := bs.foldl (fun w b => w * 256 + b.toNat) 0

/-- `W[hi:lo]` (00_scope.md R6). -/
def wordField (w hi lo : Nat) : Nat := (w >>> lo) % 2 ^ (hi - lo + 1)

/-- The longest request frame (30_encoding.md R60: 1 to 9 bytes). -/
def longestFrame : Nat := 9

/-- The bytes of an opcode-table word, whose bit 0 is the least significant bit of the FIRST byte; every bit above
`nbits` is 0. -/
def tableBytes (nbits w : Nat) : List Byte :=
  (List.range longestFrame).map fun k => BitVec.ofNat 8 ((w % 2 ^ nbits) >>> (8 * k))

/-- The one frame those bytes begin with, cut at the length that its OP fixes (R69). -/
def tableFrame (nbits w : Nat) : List Byte :=
  (tableBytes nbits w).take (frameLength (BitVec.ofNat 8 (w % 2 ^ nbits)))

/-- The instruction the decoder reads from an opcode-table word. -/
def decodeTableWord (nbits w : Nat) : Option Instr :=
  match decode (tableFrame nbits w) with
  | .request i _ => some i
  | .illegal _ _ => none
  | .truncated => none

end Sys2Proof
end

