-- ==== Sys2Proof/Config.lean ====
section
/-! DEFINITION. What is fixed when the block is instantiated (00_scope.md R5, 70_reset_and_hazards.md R231) and the
values the spec leaves open: constants WITHOUT a body, of which no proof can see a value (notes/assumptions/1, 2, 3). -/

namespace Sys2Proof

/-- 00_scope.md R5: the instance parameter HOUR12_POLICY, what DT.DEC does with an hours register in 12-hour mode. -/
inductive Hour12Policy where
  | RESOLVE
  | REJECT
  | SOURCE
  deriving DecidableEq, Repr

/-- How one transport access went on the bus (20_memory.md R44, R51; 93_implementation_defined.md U1). -/
inductive BusResult where
  /-- The chip acknowledged: a read brings its registers, a write stores every byte. -/
  | acknowledged
  /-- The bus failed and the host is not told: a read brings `data` (stale, zeroed or any bytes; 0x00 beyond its
  end), and of a write only the first `reached` bytes arrive. -/
  | failed (data : List Byte) (reached : Nat)
  deriving DecidableEq, Repr, Inhabited

/-- What the world outside the host and the block does around ONE transport access: the registers the chip itself
changes since the access before (its timekeeping, alarms and conversions; R212, R235, R245), how the bus behaves
(R51), and what the chip makes of the access afterwards (side effects of a read, bits it does not store as written;
R50, R245, 93_implementation_defined.md U13). -/
structure Access where
  chipBefore : List Host.Cell
  bus        : BusResult
  chipAfter  : List Host.Cell
  deriving DecidableEq, Repr, Inhabited

/-- The access L3 of 95_test_vectors.md assumes: the chip changes nothing by itself and the bus works. -/
def Access.quiet : Access := ⟨[], .acknowledged, []⟩

/-- 00_scope.md R5: EPOCH_BASE is at most 65436, so that EPOCH_BASE + 99 fits the 16-bit year port. -/
abbrev EpochBase := Fin 65437

/-- 00_scope.md R5, 92_eei_decisions.md D7: EPOCH_BASE is OPEN. Free value, notes/assumptions/1. -/
opaque Config.epochBase : EpochBase

/-- 00_scope.md R5, 70_reset_and_hazards.md R231: HOUR12_POLICY defaults to RESOLVE. -/
def Config.hour12Default : Hour12Policy := .RESOLVE

/-- 70_reset_and_hazards.md R232: the byte each chip register holds at power-up, "a free draw under no law".
Free value, notes/assumptions/2. -/
opaque Config.chipPowerUp : Nat → Byte

/-- What the outside world does around the n-th transport access (20_memory.md R50, R51; 93_implementation_defined.md
U1, U13: "each read as an oracle draw"). Free value, notes/assumptions/3. -/
opaque Config.accessAt : Nat → Access

end Sys2Proof
end

