-- ==== Sys2Proof/Machine/Fields.lean ====
section
/-! DEFINITION. The register map (20_memory.md R42) and the field table (R43) of the chip register image: names,
addresses, masks, positions, access and legal values, each a named constant that can be corrected in one place
(93_implementation_defined.md section 2; the addresses and most positions are the spec's general knowledge of the
DS3231, notes/assumptions/4). -/

namespace Sys2Proof.Machine

/-- 20_memory.md R42: the 19 registers, in address order. -/
inductive ChipReg where
  | SECONDS | MINUTES | HOURS | WEEKDAY | DATE | MONTH_CENTURY | YEAR
  | A1_SECONDS | A1_MINUTES | A1_HOURS | A1_DAYDATE | A2_MINUTES | A2_HOURS | A2_DAYDATE
  | CONTROL | STATUS | AGING | TEMP_MSB | TEMP_LSB
  deriving DecidableEq, Repr

/-- 20_memory.md R41, R42: the address of each register. -/
def ChipReg.address : ChipReg → Nat
  | .SECONDS => 0x00
  | .MINUTES => 0x01
  | .HOURS => 0x02
  | .WEEKDAY => 0x03
  | .DATE => 0x04
  | .MONTH_CENTURY => 0x05
  | .YEAR => 0x06
  | .A1_SECONDS => 0x07
  | .A1_MINUTES => 0x08
  | .A1_HOURS => 0x09
  | .A1_DAYDATE => 0x0A
  | .A2_MINUTES => 0x0B
  | .A2_HOURS => 0x0C
  | .A2_DAYDATE => 0x0D
  | .CONTROL => 0x0E
  | .STATUS => 0x0F
  | .AGING => 0x10
  | .TEMP_MSB => 0x11
  | .TEMP_LSB => 0x12

/-- 20_memory.md R41: how many registers the map has; addresses from this one on are not named by any source. -/
def chipSize : Nat := 19

/-- 20_memory.md R43: how the driver uses a field, as the table's access column says. The block enforces none of it. -/
inductive FieldAccess where
  /-- "R/W". -/
  | readWrite
  /-- "read-only". -/
  | readOnly
  /-- "read; software clears by writing 0". -/
  | clearedByZero
  /-- "not in source; DT.ENC writes 0, DT.DEC ignores" (SEC_RSV and the rows "as SEC_RSV"). -/
  | writtenZero
  /-- "not in source". -/
  | notInSource
  deriving DecidableEq, Repr

/-- 20_memory.md R43: the fields, in the table's order and under its names. -/
inductive ChipField where
  | SEC_RSV | SEC_TENS | SEC_ONES | MIN_RSV | MIN_TENS | MIN_ONES | HR_RSV | HR_MODE12
  | HR_PM20 | HR_TENS | HR_ONES | WD_RSV | WD_DAY | DATE_RSV | DATE_TENS | DATE_ONES
  | MON_CENTURY | MON_RSV | MON_TENS | MON_ONES | YR_TENS | YR_ONES | A1M1 | A1S_TENS
  | A1S_ONES | A1M2 | A1MIN_TENS | A1MIN_ONES | A1M3 | A1H_MODE12 | A1H_PM20 | A1H_TENS
  | A1H_ONES | A1M4 | A1_DYDT | A1D_TENS | A1D_ONES | A2M2 | A2MIN_TENS | A2MIN_ONES
  | A2M3 | A2H_MODE12 | A2H_PM20 | A2H_TENS | A2H_ONES | A2M4 | A2_DYDT | A2D_TENS
  | A2D_ONES | EOSC | BBSQW | CONV | RS | RS2 | RS1 | INTCN
  | A2IE | A1IE | OSF | ST_RSV | EN32KHZ | BSY | A2F | A1F
  | AGING | TEMP_INT | TEMP_FRAC | TL_RSV
  deriving DecidableEq, Repr

/-- One row of the field table: its register, field mask, bit positions, access, and the least and greatest legal
value (none where the table gives no legal values). -/
structure FieldRow where
  reg    : ChipReg
  mask   : Byte
  hi     : Nat
  lo     : Nat
  access : FieldAccess
  legal  : Option (Nat × Nat)
  deriving DecidableEq, Repr

/-- 20_memory.md R43: the field table. -/
def ChipField.row : ChipField → FieldRow
  | .SEC_RSV => ⟨.SECONDS, 0x80, 7, 7, .writtenZero, some (0, 0)⟩
  | .SEC_TENS => ⟨.SECONDS, 0x70, 6, 4, .readWrite, some (0, 5)⟩
  | .SEC_ONES => ⟨.SECONDS, 0x0F, 3, 0, .readWrite, some (0, 9)⟩
  | .MIN_RSV => ⟨.MINUTES, 0x80, 7, 7, .writtenZero, some (0, 0)⟩
  | .MIN_TENS => ⟨.MINUTES, 0x70, 6, 4, .readWrite, some (0, 5)⟩
  | .MIN_ONES => ⟨.MINUTES, 0x0F, 3, 0, .readWrite, some (0, 9)⟩
  | .HR_RSV => ⟨.HOURS, 0x80, 7, 7, .writtenZero, some (0, 0)⟩
  | .HR_MODE12 => ⟨.HOURS, 0x40, 6, 6, .readWrite, some (0, 1)⟩
  | .HR_PM20 => ⟨.HOURS, 0x20, 5, 5, .readWrite, some (0, 1)⟩
  | .HR_TENS => ⟨.HOURS, 0x10, 4, 4, .readWrite, some (0, 1)⟩
  | .HR_ONES => ⟨.HOURS, 0x0F, 3, 0, .readWrite, some (0, 9)⟩
  | .WD_RSV => ⟨.WEEKDAY, 0xF8, 7, 3, .writtenZero, some (0, 0)⟩
  | .WD_DAY => ⟨.WEEKDAY, 0x07, 2, 0, .readWrite, some (1, 7)⟩
  | .DATE_RSV => ⟨.DATE, 0xC0, 7, 6, .writtenZero, some (0, 0)⟩
  | .DATE_TENS => ⟨.DATE, 0x30, 5, 4, .readWrite, some (0, 3)⟩
  | .DATE_ONES => ⟨.DATE, 0x0F, 3, 0, .readWrite, some (0, 9)⟩
  | .MON_CENTURY => ⟨.MONTH_CENTURY, 0x80, 7, 7, .readWrite, some (0, 1)⟩
  | .MON_RSV => ⟨.MONTH_CENTURY, 0x60, 6, 5, .writtenZero, some (0, 0)⟩
  | .MON_TENS => ⟨.MONTH_CENTURY, 0x10, 4, 4, .readWrite, some (0, 1)⟩
  | .MON_ONES => ⟨.MONTH_CENTURY, 0x0F, 3, 0, .readWrite, some (0, 9)⟩
  | .YR_TENS => ⟨.YEAR, 0xF0, 7, 4, .readWrite, some (0, 9)⟩
  | .YR_ONES => ⟨.YEAR, 0x0F, 3, 0, .readWrite, some (0, 9)⟩
  | .A1M1 => ⟨.A1_SECONDS, 0x80, 7, 7, .readWrite, some (0, 1)⟩
  | .A1S_TENS => ⟨.A1_SECONDS, 0x70, 6, 4, .readWrite, some (0, 5)⟩
  | .A1S_ONES => ⟨.A1_SECONDS, 0x0F, 3, 0, .readWrite, some (0, 9)⟩
  | .A1M2 => ⟨.A1_MINUTES, 0x80, 7, 7, .readWrite, some (0, 1)⟩
  | .A1MIN_TENS => ⟨.A1_MINUTES, 0x70, 6, 4, .readWrite, some (0, 5)⟩
  | .A1MIN_ONES => ⟨.A1_MINUTES, 0x0F, 3, 0, .readWrite, some (0, 9)⟩
  | .A1M3 => ⟨.A1_HOURS, 0x80, 7, 7, .readWrite, some (0, 1)⟩
  | .A1H_MODE12 => ⟨.A1_HOURS, 0x40, 6, 6, .readWrite, some (0, 1)⟩
  | .A1H_PM20 => ⟨.A1_HOURS, 0x20, 5, 5, .readWrite, some (0, 1)⟩
  | .A1H_TENS => ⟨.A1_HOURS, 0x10, 4, 4, .readWrite, some (0, 1)⟩
  | .A1H_ONES => ⟨.A1_HOURS, 0x0F, 3, 0, .readWrite, some (0, 9)⟩
  | .A1M4 => ⟨.A1_DAYDATE, 0x80, 7, 7, .readWrite, some (0, 1)⟩
  | .A1_DYDT => ⟨.A1_DAYDATE, 0x40, 6, 6, .readWrite, some (0, 1)⟩
  | .A1D_TENS => ⟨.A1_DAYDATE, 0x30, 5, 4, .readWrite, some (0, 3)⟩
  | .A1D_ONES => ⟨.A1_DAYDATE, 0x0F, 3, 0, .readWrite, some (0, 9)⟩
  | .A2M2 => ⟨.A2_MINUTES, 0x80, 7, 7, .readWrite, some (0, 1)⟩
  | .A2MIN_TENS => ⟨.A2_MINUTES, 0x70, 6, 4, .readWrite, some (0, 5)⟩
  | .A2MIN_ONES => ⟨.A2_MINUTES, 0x0F, 3, 0, .readWrite, some (0, 9)⟩
  | .A2M3 => ⟨.A2_HOURS, 0x80, 7, 7, .readWrite, some (0, 1)⟩
  | .A2H_MODE12 => ⟨.A2_HOURS, 0x40, 6, 6, .readWrite, some (0, 1)⟩
  | .A2H_PM20 => ⟨.A2_HOURS, 0x20, 5, 5, .readWrite, some (0, 1)⟩
  | .A2H_TENS => ⟨.A2_HOURS, 0x10, 4, 4, .readWrite, some (0, 1)⟩
  | .A2H_ONES => ⟨.A2_HOURS, 0x0F, 3, 0, .readWrite, some (0, 9)⟩
  | .A2M4 => ⟨.A2_DAYDATE, 0x80, 7, 7, .readWrite, some (0, 1)⟩
  | .A2_DYDT => ⟨.A2_DAYDATE, 0x40, 6, 6, .readWrite, some (0, 1)⟩
  | .A2D_TENS => ⟨.A2_DAYDATE, 0x30, 5, 4, .readWrite, some (0, 3)⟩
  | .A2D_ONES => ⟨.A2_DAYDATE, 0x0F, 3, 0, .readWrite, some (0, 9)⟩
  | .EOSC => ⟨.CONTROL, 0x80, 7, 7, .readWrite, some (0, 1)⟩
  | .BBSQW => ⟨.CONTROL, 0x40, 6, 6, .readWrite, some (0, 1)⟩
  | .CONV => ⟨.CONTROL, 0x20, 5, 5, .readWrite, some (0, 1)⟩
  | .RS => ⟨.CONTROL, 0x18, 4, 3, .readWrite, some (0, 3)⟩
  | .RS2 => ⟨.CONTROL, 0x10, 4, 4, .readWrite, some (0, 1)⟩
  | .RS1 => ⟨.CONTROL, 0x08, 3, 3, .readWrite, some (0, 1)⟩
  | .INTCN => ⟨.CONTROL, 0x04, 2, 2, .readWrite, some (0, 1)⟩
  | .A2IE => ⟨.CONTROL, 0x02, 1, 1, .readWrite, some (0, 1)⟩
  | .A1IE => ⟨.CONTROL, 0x01, 0, 0, .readWrite, some (0, 1)⟩
  | .OSF => ⟨.STATUS, 0x80, 7, 7, .readOnly, some (0, 1)⟩
  | .ST_RSV => ⟨.STATUS, 0x70, 6, 4, .notInSource, none⟩
  | .EN32KHZ => ⟨.STATUS, 0x08, 3, 3, .readWrite, some (0, 1)⟩
  | .BSY => ⟨.STATUS, 0x04, 2, 2, .readOnly, some (0, 1)⟩
  | .A2F => ⟨.STATUS, 0x02, 1, 1, .clearedByZero, some (0, 1)⟩
  | .A1F => ⟨.STATUS, 0x01, 0, 0, .clearedByZero, some (0, 1)⟩
  | .AGING => ⟨.AGING, 0xFF, 7, 0, .notInSource, none⟩
  | .TEMP_INT => ⟨.TEMP_MSB, 0xFF, 7, 0, .readOnly, some (0, 255)⟩
  | .TEMP_FRAC => ⟨.TEMP_LSB, 0xC0, 7, 6, .readOnly, some (0, 3)⟩
  | .TL_RSV => ⟨.TEMP_LSB, 0x3F, 5, 0, .notInSource, none⟩

/-- The field mask that names a field as the operand M (R43, 42_field.md R162). -/
def ChipField.mask (f : ChipField) : Byte := f.row.mask

/-- Every field of every register, in the table's order. -/
def ChipField.all : List ChipField :=
  [.SEC_RSV, .SEC_TENS, .SEC_ONES, .MIN_RSV, .MIN_TENS, .MIN_ONES, .HR_RSV, .HR_MODE12, .HR_PM20,
   .HR_TENS, .HR_ONES, .WD_RSV, .WD_DAY, .DATE_RSV, .DATE_TENS, .DATE_ONES, .MON_CENTURY, .MON_RSV,
   .MON_TENS, .MON_ONES, .YR_TENS, .YR_ONES, .A1M1, .A1S_TENS, .A1S_ONES, .A1M2, .A1MIN_TENS,
   .A1MIN_ONES, .A1M3, .A1H_MODE12, .A1H_PM20, .A1H_TENS, .A1H_ONES, .A1M4, .A1_DYDT, .A1D_TENS,
   .A1D_ONES, .A2M2, .A2MIN_TENS, .A2MIN_ONES, .A2M3, .A2H_MODE12, .A2H_PM20, .A2H_TENS, .A2H_ONES,
   .A2M4, .A2_DYDT, .A2D_TENS, .A2D_ONES, .EOSC, .BBSQW, .CONV, .RS, .RS2,
   .RS1, .INTCN, .A2IE, .A1IE, .OSF, .ST_RSV, .EN32KHZ, .BSY, .A2F,
   .A1F, .AGING, .TEMP_INT, .TEMP_FRAC, .TL_RSV]

/-- The spelling of a field's name in a host program (30_encoding.md R70). -/
def ChipField.text : ChipField → String
  | .SEC_RSV => "SEC_RSV"
  | .SEC_TENS => "SEC_TENS"
  | .SEC_ONES => "SEC_ONES"
  | .MIN_RSV => "MIN_RSV"
  | .MIN_TENS => "MIN_TENS"
  | .MIN_ONES => "MIN_ONES"
  | .HR_RSV => "HR_RSV"
  | .HR_MODE12 => "HR_MODE12"
  | .HR_PM20 => "HR_PM20"
  | .HR_TENS => "HR_TENS"
  | .HR_ONES => "HR_ONES"
  | .WD_RSV => "WD_RSV"
  | .WD_DAY => "WD_DAY"
  | .DATE_RSV => "DATE_RSV"
  | .DATE_TENS => "DATE_TENS"
  | .DATE_ONES => "DATE_ONES"
  | .MON_CENTURY => "MON_CENTURY"
  | .MON_RSV => "MON_RSV"
  | .MON_TENS => "MON_TENS"
  | .MON_ONES => "MON_ONES"
  | .YR_TENS => "YR_TENS"
  | .YR_ONES => "YR_ONES"
  | .A1M1 => "A1M1"
  | .A1S_TENS => "A1S_TENS"
  | .A1S_ONES => "A1S_ONES"
  | .A1M2 => "A1M2"
  | .A1MIN_TENS => "A1MIN_TENS"
  | .A1MIN_ONES => "A1MIN_ONES"
  | .A1M3 => "A1M3"
  | .A1H_MODE12 => "A1H_MODE12"
  | .A1H_PM20 => "A1H_PM20"
  | .A1H_TENS => "A1H_TENS"
  | .A1H_ONES => "A1H_ONES"
  | .A1M4 => "A1M4"
  | .A1_DYDT => "A1_DYDT"
  | .A1D_TENS => "A1D_TENS"
  | .A1D_ONES => "A1D_ONES"
  | .A2M2 => "A2M2"
  | .A2MIN_TENS => "A2MIN_TENS"
  | .A2MIN_ONES => "A2MIN_ONES"
  | .A2M3 => "A2M3"
  | .A2H_MODE12 => "A2H_MODE12"
  | .A2H_PM20 => "A2H_PM20"
  | .A2H_TENS => "A2H_TENS"
  | .A2H_ONES => "A2H_ONES"
  | .A2M4 => "A2M4"
  | .A2_DYDT => "A2_DYDT"
  | .A2D_TENS => "A2D_TENS"
  | .A2D_ONES => "A2D_ONES"
  | .EOSC => "EOSC"
  | .BBSQW => "BBSQW"
  | .CONV => "CONV"
  | .RS => "RS"
  | .RS2 => "RS2"
  | .RS1 => "RS1"
  | .INTCN => "INTCN"
  | .A2IE => "A2IE"
  | .A1IE => "A1IE"
  | .OSF => "OSF"
  | .ST_RSV => "ST_RSV"
  | .EN32KHZ => "EN32KHZ"
  | .BSY => "BSY"
  | .A2F => "A2F"
  | .A1F => "A1F"
  | .AGING => "AGING"
  | .TEMP_INT => "TEMP_INT"
  | .TEMP_FRAC => "TEMP_FRAC"
  | .TL_RSV => "TL_RSV"

/-- The field a spelling names (30_encoding.md R70). -/
def fieldOfText (w : String) : Option ChipField := ChipField.all.find? fun f => f.text == w

/-- 20_memory.md R43: the fields "the source names no field for". -/
def ChipField.isReserved : ChipField → Bool
  | .SEC_RSV | .MIN_RSV | .HR_RSV | .WD_RSV | .DATE_RSV | .MON_RSV | .ST_RSV | .TL_RSV => true
  | .SEC_TENS | .SEC_ONES | .MIN_TENS | .MIN_ONES | .HR_MODE12 | .HR_PM20 | .HR_TENS | .HR_ONES | .WD_DAY => false
  | .DATE_TENS | .DATE_ONES | .MON_CENTURY | .MON_TENS | .MON_ONES | .YR_TENS | .YR_ONES | .A1M1 | .A1S_TENS => false
  | .A1S_ONES | .A1M2 | .A1MIN_TENS | .A1MIN_ONES | .A1M3 | .A1H_MODE12 | .A1H_PM20 | .A1H_TENS | .A1H_ONES => false
  | .A1M4 | .A1_DYDT | .A1D_TENS | .A1D_ONES | .A2M2 | .A2MIN_TENS | .A2MIN_ONES | .A2M3 | .A2H_MODE12 => false
  | .A2H_PM20 | .A2H_TENS | .A2H_ONES | .A2M4 | .A2_DYDT | .A2D_TENS | .A2D_ONES | .EOSC | .BBSQW => false
  | .CONV | .RS | .RS2 | .RS1 | .INTCN | .A2IE | .A1IE | .OSF | .EN32KHZ => false
  | .BSY | .A2F | .A1F | .AGING | .TEMP_INT | .TEMP_FRAC => false

/-- 70_reset_and_hazards.md R237: the bits a host must not change: BSY, OSF and every RSV field. -/
def ChipField.isProtected (f : ChipField) : Bool := f.isReserved || f == .BSY || f == .OSF

/-- 42_field.md R165: the flags of the source's ControlFlags record. The block gives none a meaning beyond its bits. -/
inductive ControlFlag where
  | oscillatorEnabled | batteryBackedSquareWaveEnabled | forceTemperatureConversion | squareWaveRate
  | interruptControlMode | alarm2InterruptEnabled | alarm1InterruptEnabled
  deriving DecidableEq, Repr

/-- 42_field.md R165: which field names each control flag. -/
def ControlFlag.field : ControlFlag → ChipField
  | .oscillatorEnabled => .EOSC
  | .batteryBackedSquareWaveEnabled => .BBSQW
  | .forceTemperatureConversion => .CONV
  | .squareWaveRate => .RS
  | .interruptControlMode => .INTCN
  | .alarm2InterruptEnabled => .A2IE
  | .alarm1InterruptEnabled => .A1IE

/-- 42_field.md R165: the flags of the source's StatusFlags record. -/
inductive StatusFlag where
  | alarm1Triggered | alarm2Triggered | busy | output32kHzEnabled | oscillatorStopped
  deriving DecidableEq, Repr

/-- 42_field.md R165: which field names each status flag. -/
def StatusFlag.field : StatusFlag → ChipField
  | .alarm1Triggered => .A1F
  | .alarm2Triggered => .A2F
  | .busy => .BSY
  | .output32kHzEnabled => .EN32KHZ
  | .oscillatorStopped => .OSF

/-- 41_datetime.md R123: the value of HR_MODE12 that means 12-hour mode (93_implementation_defined.md G2). -/
def mode12Value : Nat := 1

/-- 41_datetime.md R124: the value of HR_PM20 that adds 20 in 24-hour mode. -/
def bit20Value : Nat := 1

/-- 41_datetime.md R125: the value of HR_PM20 that means PM in 12-hour mode (93_implementation_defined.md G2). -/
def pmValue : Nat := 1

end Sys2Proof.Machine
end

