-- ==== Sys2Proof/Machine/HostSyntax.lean ====
section
/-! DEFINITION. The lines of a host program (30_encoding.md R70, R71): the host is the one agent that drives the block
(60_exceptions.md R214). Host actions are not block requests and have no encoding, so they are no part of Instr. -/

namespace Sys2Proof.Machine

/-- 30_encoding.md R70: the fields `name.second` … `name.year` of a DT.DEC result. -/
inductive CalendarPart where
  | second | minute | hour | weekday | day | month | year
  deriving DecidableEq, Repr

/-- 30_encoding.md R70: an operand of a line. -/
inductive Operand where
  /-- A decimal or hexadecimal literal. -/
  | lit (v : Int)
  /-- A named field mask, standing for its value. -/
  | mask (f : ChipField)
  /-- A bound name: its one-field result, its host integer, the bytes of a read, or the seven bytes of a DT.ENC. -/
  | name (x : String)
  /-- `name.second` and so on. -/
  | part (x : String) (c : CalendarPart)
  /-- `name[k]`: byte k of a transport read. -/
  | byteOf (x : String) (k : Nat)
  deriving DecidableEq, Repr

/-- 30_encoding.md R70, R71: what a request line may name: the six operations and the three pseudo-instructions. -/
inductive Mnemonic where
  | bcdEnc | bcdDec | dtDec | dtEnc | fldGet | fldSet | bcdDecb | fldClr | fldFill
  deriving DecidableEq, Repr

/-- 30_encoding.md R70: `<cond>`. -/
inductive Cond where
  /-- `STATUS(name) != OK` -/
  | statusNotOk (x : String)
  /-- `STATUS(name) == OK` -/
  | statusOk (x : String)
  /-- `name == n` -/
  | eq (x : String) (n : Int)
  /-- `name != n` -/
  | ne (x : String) (n : Int)
  /-- `name < n` -/
  | lt (x : String) (n : Int)
  deriving DecidableEq, Repr

/-- 30_encoding.md R70: one line of a host program. -/
inductive HostLine where
  /-- `name = MNEMONIC operands`, or the request alone. -/
  | request (x : Option String) (m : Mnemonic) (ops : List Operand)
  /-- `name = RD addr, n` -/
  | rd (x : String) (addr : Byte) (n : Nat)
  /-- `WR addr, v0, …` -/
  | wr (addr : Byte) (vs : List Operand)
  /-- `name = n` -/
  | assign (x : String) (n : Int)
  /-- `x = y + n` -/
  | add (x y : String) (n : Int)
  /-- `label:` -/
  | label (l : String)
  /-- `goto label` -/
  | goto (l : String)
  /-- `if <cond> goto label` -/
  | ifGoto (c : Cond) (l : String)
  /-- `if <cond> stop` -/
  | ifStop (c : Cond)
  /-- `stop` -/
  | stop
  deriving DecidableEq, Repr

end Sys2Proof.Machine
end

