-- ==== Sys2Proof/Machine/State.lean ====
section
/-! DEFINITION. The state as plain data: the instance parameters, the block's two ports, the chip register image and
the host that drives them (10_state.md section 4, 70_reset_and_hazards.md R243). The block itself holds nothing
between requests (R20). -/

namespace Sys2Proof.Machine

/-- 60_exceptions.md R201: the error codes; their numbers are in Flags.lean. -/
inductive ErrorCode where
  | E_RANGE | E_DIGIT | E_FIELD | E_MODE12 | E_MASK | E_OP
  deriving DecidableEq, Repr

/-- 60_exceptions.md R200, R202: what an error records: its code and its INFO byte. -/
structure CodecError where
  code : ErrorCode
  info : Byte
  deriving DecidableEq, Repr

/-- 30_encoding.md R67: the result fields of an OK response. -/
inductive Result where
  /-- BYTE of BCD.ENC and FLD.SET. -/
  | byte (b : Byte)
  /-- VALUE of BCD.DEC and FLD.GET. -/
  | value (b : Byte)
  /-- The record of DT.DEC. -/
  | calendar (t : CalendarTime)
  /-- The seven bytes of DT.ENC. -/
  | registers (p : PackedDate)
  deriving DecidableEq, Repr

/-- 10_state.md R25, 60_exceptions.md R200: a response is a whole result with STATUS = OK, or exactly one error. -/
inductive Response where
  | ok (r : Result)
  | error (e : CodecError)
  deriving DecidableEq, Repr

/-- 30_encoding.md R70: what a host program's name stands for. -/
inductive HostValue where
  | response (r : Response)
  | bytes (bs : List Byte)
  | int (n : Int)
  deriving DecidableEq, Repr

/-- Where the host is in its program (20_memory.md R52: it waits for each response). -/
inductive HostPhase where
  | running
  /-- A request has been presented; its response will be bound to the name, if there is one. -/
  | awaiting (x : Option String)
  /-- It executed `stop` (70_reset_and_hazards.md R245). -/
  | stopped
  deriving DecidableEq, Repr

/-- Why a run faults. -/
inductive Fault where
  /-- A host line reads a result field of an error response (10_state.md R25, 93_implementation_defined.md U3: "fault").
  Raised by the host's operand and condition reads, never by a block operation. Safe. -/
  | absentResult
  deriving DecidableEq, Repr

/-- Why the model has no move. -/
inductive Refusal where
  /-- An instruction with no meaning; raised by no arm of this model. Safe. -/
  | notModelled (mnemonic : String)
  /-- The request port holds the beginning of a frame only (30_encoding.md R69, U5). Raised by the fetch. Safe. -/
  | truncatedFrame
  /-- A transfer reaches a chip address above 0x12 (20_memory.md R41, U6). Raised by RD and WR. Safe. -/
  | chipAddress
  /-- A WR that changes BSY, OSF or an RSV bit (70_reset_and_hazards.md R237, R243, U7). Raised by WR. Safe. -/
  | protectedBits
  /-- A line uses a name that nothing has bound (30_encoding.md R70). Raised by operands and conditions. Safe. -/
  | unboundName (x : String)
  /-- A name is used where what it stands for has no meaning (30_encoding.md R70). Raised by host lines. Safe. -/
  | wrongKind (x : String)
  /-- A line gives a mnemonic another number of operands than its format has (30_encoding.md R70). Safe. -/
  | operandCount
  /-- An operand value that its port or register byte cannot carry (00_scope.md R9, 30_encoding.md R70). Safe. -/
  | operandRange
  /-- FLD.FILL with a mask that is not contiguous: "an assembler refuses it" (30_encoding.md R71). Safe. -/
  | illegalPseudo
  /-- A `goto` to a label that no line has (30_encoding.md R70). Safe. -/
  | noLabel (l : String)
  deriving DecidableEq, Repr

/-- 20_memory.md R41: the chip register image, one byte for each address 0x00 to 0x12. -/
abbrev ChipImage := Vector Byte 19

/-- The host's bound names, in strictly rising order of the name. -/
abbrev Names := List (String × HostValue)

/-- 10_state.md section 4 and 70_reset_and_hazards.md R243 to R245. -/
structure State where
  /-- Instance parameter (00_scope.md R5): fixed. -/
  epochBase    : EpochBase
  /-- Instance parameter (00_scope.md R5): fixed. -/
  hour12Policy : Hour12Policy
  /-- The request port: the bytes the host has presented and the block has not consumed, first byte first (R24). -/
  request      : List Byte
  /-- The response port: the response to the latest request, if one has been given (R25). -/
  response     : Option Response
  /-- The chip register image, outside the block (20_memory.md R41), as the latest transport access left it: what the chip
  changes by itself in between is applied when the next access begins (DESIGN CHOICE, notes/assumptions/26). -/
  chip         : ChipImage
  /-- What is told of the outside world around the transport accesses to come, first access first (20_memory.md R51);
  beyond its end each access is a free draw. -/
  bus          : List Access
  /-- The number of transport accesses so far: the counter that draws a fresh free value for each (U13). The model's own. -/
  accesses     : Nat
  /-- For each chip address, the byte the host's latest RD of it brought, if it has read it (R237). -/
  lastRead     : Vector (Option Byte) 19
  /-- The host program (30_encoding.md R70). -/
  program      : List HostLine
  /-- The index of the host's current line. -/
  line         : Nat
  /-- What the host's names stand for. -/
  names        : Names
  /-- Where the host is in the current line. -/
  phase        : HostPhase
  deriving DecidableEq, Repr

/-- 70_reset_and_hazards.md R230, R231, R232, R244: the block just instantiated, no request in flight, no host program
loaded; EPOCH_BASE, the chip's power-up contents and every access to come are free values (notes/assumptions/1, 2, 3). -/
def State.reset : State where
  epochBase    := Config.epochBase
  hour12Policy := Config.hour12Default
  request      := []
  response     := none
  chip         := Vector.ofFn fun a => Config.chipPowerUp a.val
  bus          := []
  accesses     := 0
  lastRead     := Vector.replicate 19 none
  program      := []
  line         := 0
  names        := []
  phase        := .running

end Sys2Proof.Machine
end

