-- ==== Sys2Proof/Machine/Flags.lean ====
section
/-! DEFINITION. STATUS, the block's only flag-like output (10_state.md R28): its codes (60_exceptions.md R201), the INFO
byte an error records (R202), and the response frame that carries them (30_encoding.md R67). -/

namespace Sys2Proof.Machine

/-- 60_exceptions.md R201: the STATUS code of each error. -/
def ErrorCode.status : ErrorCode → Byte
  | .E_RANGE => 0x01
  | .E_DIGIT => 0x02
  | .E_FIELD => 0x03
  | .E_MODE12 => 0x04
  | .E_MASK => 0x05
  | .E_OP => 0x06

/-- 60_exceptions.md R201: STATUS = OK. -/
def statusOK : Byte := 0x00

/-- The STATUS byte of a response (10_state.md R25, R28). -/
def Response.status : Response → Byte
  | .ok _ => statusOK
  | .error e => e.code.status

/-- 60_exceptions.md R202: INFO where no register offset applies. -/
def infoNone : Byte := 0xFF

/-- 60_exceptions.md R202: INFO = 0xFF for E_RANGE of BCD.ENC and FLD.SET. -/
def rangeError : CodecError := ⟨.E_RANGE, infoNone⟩

/-- 60_exceptions.md R202: INFO = 0xFF for E_MASK. -/
def maskError : CodecError := ⟨.E_MASK, infoNone⟩

/-- 60_exceptions.md R202: E_RANGE of DT.ENC carries the register offset of the failing field. -/
def rangeErrorAt (i : Nat) : CodecError := ⟨.E_RANGE, BitVec.ofNat 8 i⟩

/-- 60_exceptions.md R202: E_DIGIT carries the register offset of the failing field. -/
def digitError (i : Nat) : CodecError := ⟨.E_DIGIT, BitVec.ofNat 8 i⟩

/-- 60_exceptions.md R202: E_FIELD carries the register offset of the failing field. -/
def fieldError (i : Nat) : CodecError := ⟨.E_FIELD, BitVec.ofNat 8 i⟩

/-- 41_datetime.md R126, 60_exceptions.md R202: E_MODE12(2). -/
def mode12Error : CodecError := ⟨.E_MODE12, 2⟩

/-- 30_encoding.md R66, 60_exceptions.md R202: E_OP carries the OP byte received. -/
def illegalOpError (op : Byte) : CodecError := ⟨.E_OP, op⟩

/-- 30_encoding.md R67: the result bytes of an OK response. -/
def Result.bytes : Result → List Byte
  | .byte b => [b]
  | .value b => [b]
  | .calendar t => t.bytes
  | .registers p => p.bytes

/-- 30_encoding.md R67: the response frame: STATUS, then the result, or exactly one INFO byte. -/
def Response.frame : Response → List Byte
  | .ok r => statusOK :: r.bytes
  | .error e => [e.code.status, e.info]

end Sys2Proof.Machine
end

