-- ==== Sys2Proof/Machine/Operands.lean ====
section
/-! DEFINITION. How bits, digits and fields are read from operands (00_scope.md R6, R8; 42_field.md R162), and how a
host line's operands and conditions are read (30_encoding.md R70). -/

namespace Sys2Proof.Machine

/-- `b[hi:lo] = (b >> lo) mod 2^(hi-lo+1)` (00_scope.md R6). -/
def bits (b : Byte) (hi lo : Nat) : Nat := (b.toNat >>> lo) % 2 ^ (hi - lo + 1)

/-- `nib_lo(b) = b[3:0]`, the ones digit of a packed byte (00_scope.md R8). -/
def nibLo (b : Byte) : Nat := bits b 3 0

/-- `nib_hi(b) = b[7:4]`, the tens digit of a packed byte (00_scope.md R8). -/
def nibHi (b : Byte) : Nat := bits b 7 4

/-- `fromBcdNibbles(t,o) = t*10 + o` (00_scope.md R8). -/
def fromBcdNibbles (t o : Nat) : Nat := t * 10 + o

/-- `digit_ok(d) = (d <= 9)` (00_scope.md R8). -/
def digitOk (d : Nat) : Bool := decide (d ≤ 9)

/-- `ctz(m)`: the least i with m[i] = 1 (00_scope.md R8). R8 defines it for m ≠ 0 only, and no rule asks for ctz(0):
every use stands behind `contiguous`, and every mask of the field table is contiguous. -/
def ctz (m : Byte) : Nat := ((List.range 8).find? fun i => m.getLsbD i).getD 8

/-- `popcount(m)`: the number of i in 0..7 with m[i] = 1 (00_scope.md R8). -/
def popcount (m : Byte) : Nat := (List.range 8).countP fun i => m.getLsbD i

/-- `contiguous(m) = m != 0 and (m >> ctz(m)) = 2^popcount(m) - 1` (00_scope.md R8, 42_field.md R162). -/
def contiguous (m : Byte) : Bool := m != 0 && m.toNat >>> ctz m == 2 ^ popcount m - 1

/-- `(b & m) >> ctz(m)`: the bits of b under m, right-aligned (42_field.md R160). -/
def maskedValue (b m : Byte) : Byte := (b &&& m) >>> ctz m

/-- The value a named field of 20_memory.md R43 has in a register byte. -/
def ChipField.get (f : ChipField) (b : Byte) : Nat := (maskedValue b f.mask).toNat

/-- Continue with the value of an outcome, or stop as it stopped. -/
def andThen {α β : Type} (o : Host.Outcome α Fault Refusal) (f : α → Host.Outcome β Fault Refusal) :
    Host.Outcome β Fault Refusal :=
  match o with
  | .next a => f a
  | .fault e => .fault e
  | .refused r => .refused r

/-- What a host name is bound to. -/
def lookupName (names : Names) (x : String) : Host.Outcome HostValue Fault Refusal :=
  match names.lookup x with
  | some v => .next v
  | none => .refused (.unboundName x)

/-- The result of a response. 10_state.md R25: "A model must treat reading it as a fault, never as zero or as a stale
value" where the response is an error. -/
def resultOf (r : Response) : Host.Outcome Result Fault Refusal :=
  match r with
  | .ok v => .next v
  | .error _ => .fault .absentResult

/-- A byte as the operand value it is. -/
def byteValue (b : Byte) : Int := (b.toNat : Int)

/-- 30_encoding.md R70: "For BCD.ENC, BCD.DEC, FLD.GET and FLD.SET that is the one result field. For DT.ENC it is the
seven bytes P[0..6] in order". A DT.DEC record is no operand: only its parts are. -/
def resultValues (x : String) (r : Result) : Host.Outcome (List Int) Fault Refusal :=
  match r with
  | .byte b => .next [byteValue b]
  | .value b => .next [byteValue b]
  | .registers p => .next (p.bytes.map byteValue)
  | .calendar _ => .refused (.wrongKind x)

/-- 30_encoding.md R70: the operand values a bound name stands for. -/
def valuesOf (x : String) (v : HostValue) : Host.Outcome (List Int) Fault Refusal :=
  match v with
  | .response r => andThen (resultOf r) (resultValues x)
  | .bytes bs => .next (bs.map byteValue)
  | .int n => .next [n]

/-- One field of a CalendarTime, as an operand value. -/
def CalendarPart.of (c : CalendarPart) (t : CalendarTime) : Int :=
  match c with
  | .second => byteValue t.second
  | .minute => byteValue t.minute
  | .hour => byteValue t.hour
  | .weekday => byteValue t.weekday
  | .day => byteValue t.day
  | .month => byteValue t.month
  | .year => (t.year.toNat : Int)

/-- 30_encoding.md R70: `name.second`, …, `name.year` select one field of a DT.DEC record. -/
def partOf (x : String) (c : CalendarPart) (v : HostValue) : Host.Outcome Int Fault Refusal :=
  match v with
  | .response r => andThen (resultOf r) fun res =>
      match res with
      | .calendar t => .next (c.of t)
      | .byte _ => .refused (.wrongKind x)
      | .value _ => .refused (.wrongKind x)
      | .registers _ => .refused (.wrongKind x)
  | .bytes _ => .refused (.wrongKind x)
  | .int _ => .refused (.wrongKind x)

/-- 30_encoding.md R70: `name[k]` is byte k of a transport read. -/
def readByteOf (x : String) (k : Nat) (v : HostValue) : Host.Outcome Int Fault Refusal :=
  match v with
  | .bytes bs =>
    match bs[k]? with
    | some b => .next (byteValue b)
    | none => .refused .operandRange
  | .response _ => .refused (.wrongKind x)
  | .int _ => .refused (.wrongKind x)

/-- The operand values one operand of a line stands for. -/
def Operand.values (names : Names) (o : Operand) : Host.Outcome (List Int) Fault Refusal :=
  match o with
  | .lit v => .next [v]
  | .mask f => .next [byteValue f.mask]
  | .name x => andThen (lookupName names x) (valuesOf x)
  | .part x c => andThen (lookupName names x) fun v => andThen (partOf x c v) fun n => .next [n]
  | .byteOf x k => andThen (lookupName names x) fun v => andThen (readByteOf x k v) fun n => .next [n]

/-- The operand values of a whole line, in order. A name of several bytes gives them wherever it stands in any operand
list: R70 states it of a DT.ENC result for the list of `DT.DEC` or `WR` only, and the rest is the model's choice
(DESIGN CHOICE, notes/assumptions/23). -/
def operandValues (names : Names) : List Operand → Host.Outcome (List Int) Fault Refusal
  | [] => .next []
  | o :: os => andThen (o.values names) fun vs => andThen (operandValues names os) fun ws => .next (vs ++ ws)

/-- 30_encoding.md R70: whether STATUS(name) is OK. -/
def statusIsOk (x : String) (v : HostValue) : Host.Outcome Bool Fault Refusal :=
  match v with
  | .response (.ok _) => .next true
  | .response (.error _) => .next false
  | .bytes _ => .refused (.wrongKind x)
  | .int _ => .refused (.wrongKind x)

/-- 30_encoding.md R70: a comparison reads "a host integer or a one-field result". -/
def comparedValue (x : String) (v : HostValue) : Host.Outcome Int Fault Refusal :=
  match v with
  | .int n => .next n
  | .bytes _ => .refused (.wrongKind x)
  | .response r => andThen (resultOf r) fun res =>
      match res with
      | .byte b => .next (byteValue b)
      | .value b => .next (byteValue b)
      | .calendar _ => .refused (.wrongKind x)
      | .registers _ => .refused (.wrongKind x)

/-- 30_encoding.md R70: whether a condition holds. -/
def Cond.holds (names : Names) (c : Cond) : Host.Outcome Bool Fault Refusal :=
  match c with
  | .statusNotOk x => andThen (lookupName names x) fun v => andThen (statusIsOk x v) fun b => .next (!b)
  | .statusOk x => andThen (lookupName names x) fun v => statusIsOk x v
  | .eq x n => andThen (lookupName names x) fun v => andThen (comparedValue x v) fun k => .next (decide (k = n))
  | .ne x n => andThen (lookupName names x) fun v => andThen (comparedValue x v) fun k => .next (decide (k ≠ n))
  | .lt x n => andThen (lookupName names x) fun v => andThen (comparedValue x v) fun k => .next (decide (k < n))

end Sys2Proof.Machine
end

