-- ==== Sys2Proof/Machine/Ops.lean ====
section
/-! DEFINITION. The operations over State: answering a request, raising an error (60_exceptions.md R200), binding a host
name, and a transport access to the chip register image (20_memory.md R44). -/

namespace Sys2Proof.Machine

/-- Replace the bytes at the request port. -/
def State.setRequest (bs : List Byte) (s : State) : State := { s with request := bs }

/-- Replace what the response port carries. -/
def State.setResponse (r : Option Response) (s : State) : State := { s with response := r }

/-- Move the host to a line. -/
def State.setLine (n : Nat) (s : State) : State := { s with line := n }

/-- Change where the host is in its line. -/
def State.setPhase (p : HostPhase) (s : State) : State := { s with phase := p }

/-- Replace the host's bindings. -/
def State.setNames (ns : Names) (s : State) : State := { s with names := ns }

/-- Replace the chip register image. -/
def State.setChip (c : ChipImage) (s : State) : State := { s with chip := c }

/-- Replace what the outside world will do. -/
def State.setBus (b : List Access) (s : State) : State := { s with bus := b }

/-- Replace the number of transport accesses so far. -/
def State.setAccesses (n : Nat) (s : State) : State := { s with accesses := n }

/-- Replace what the host has read of the chip. -/
def State.setLastRead (r : Vector (Option Byte) 19) (s : State) : State := { s with lastRead := r }

/-- 10_state.md R25: the block gives its response. Nothing else of the machine changes (R20, 20_memory.md R50). -/
def State.respond (r : Response) (s : State) : State := s.setResponse (some r)

/-- TAKING AN ERROR, `raise E_NAME(info)` (00_scope.md R7; 60_exceptions.md R200, R206): the operation ends, the response
carries STATUS = the error's code and INFO, and no result. No state is saved and there is nothing to return from (R207):
the next request is performed as after reset. -/
def State.raise (e : CodecError) (s : State) : State := s.respond (.error e)

/-- An operation ends: with its whole result, or with the one error it raised (60_exceptions.md R200). -/
def State.answer (r : Except CodecError Result) (s : State) : State :=
  match r with
  | .ok v => s.respond (.ok v)
  | .error e => s.raise e

/-- Bind a host name (30_encoding.md R70: "A name may be bound again by a later line"), keeping the names rising. -/
def bindName (x : String) (v : HostValue) : Names → Names
  | [] => [(x, v)]
  | (y, w) :: rest =>
    if x < y then (x, v) :: (y, w) :: rest
    else if x = y then (x, v) :: rest
    else (y, w) :: bindName x v rest

/-- The canonical form of the host's names: strictly rising, so that equal bindings are equal data. -/
abbrev Names.wf (ns : Names) : Prop := ns.Pairwise fun p q => p.1 < q.1

/-- Bind a name, or none where the line has no name. -/
def State.bind (x : Option String) (v : HostValue) (s : State) : State :=
  match x with
  | some y => s.setNames (bindName y v s.names)
  | none => s

/-- The host goes on to its next line. -/
def State.nextLine (s : State) : State := s.setLine (s.line + 1)

/-- The byte at a chip address; none where the register map ends (20_memory.md R41). -/
def chipByte (image : ChipImage) (a : Nat) : Option Byte := image[a]?

/-- 20_memory.md R44, R48: n whole registers; byte k of the transfer is the register at address + k. -/
def chipRead (c : ChipImage) (a n : Nat) : List Byte := (c.toList.drop a).take n

/-- The status register of an image (20_memory.md R42). -/
def statusByte (c : ChipImage) : Byte := c.toList[ChipReg.STATUS.address]'(by simp [ChipReg.address])

/-- 20_memory.md R50: the status register after a byte is written to register a. The host's byte replaces it, writing 0 to
A1F or A2F clearing that flag, but BSY is no stored bit: it reflects the conversion cycle. Setting CONV starts that
cycle, which BSY then shows until the chip ends it (notes/assumptions/25). -/
def statusAfter (old : Byte) (a : Nat) (b : Byte) : Byte :=
  if a = ChipReg.STATUS.address then (b &&& ~~~ChipField.BSY.mask) ||| (old &&& ChipField.BSY.mask)
  else if a = ChipReg.CONTROL.address ∧ b &&& ChipField.CONV.mask ≠ 0 then old ||| ChipField.BSY.mask
  else old

/-- 20_memory.md R48, R50: one register is fully overwritten, with what the write does to the status register. -/
def chipStore (c : ChipImage) (a : Nat) (b : Byte) : ChipImage :=
  (c.setIfInBounds a b).setIfInBounds ChipReg.STATUS.address (statusAfter (statusByte c) a b)

/-- 20_memory.md R44, R48: byte k of the transfer goes to the register at address + k. -/
def chipWrite (c : ChipImage) (a : Nat) : List Byte → ChipImage
  | [] => c
  | b :: bs => chipWrite (chipStore c a b) (a + 1) bs

/-- The registers the chip itself changes (60_exceptions.md R212); an address without a register changes none. -/
def chipChange (c : ChipImage) : List Host.Cell → ChipImage
  | [] => c
  | (a, b) :: rest => chipChange (c.setIfInBounds a b) rest

/-- What the outside world does around the next access; where nothing is told of it, a free draw (U13). -/
def State.access (s : State) : Access :=
  match s.bus with
  | [] => Config.accessAt s.accesses
  | a :: _ => a

/-- One access has been made. -/
def State.endAccess (s : State) : State := (s.setBus s.bus.tail).setAccesses (s.accesses + 1)

/-- 20_memory.md R51, U1: what a read brings: the chip's registers, or whatever a failed bus leaves. -/
def transferRead (b : BusResult) (c : ChipImage) (a n : Nat) : List Byte :=
  match b with
  | .acknowledged => chipRead c a n
  | .failed data _ => (data ++ List.replicate n 0).take n

/-- 20_memory.md R44, R51: what a write stores; on a failed bus only a part arrives, and the host is not told. -/
def transferWrite (b : BusResult) (c : ChipImage) (a : Nat) (bs : List Byte) : ChipImage :=
  match b with
  | .acknowledged => chipWrite c a bs
  | .failed _ reached => chipWrite c a (bs.take reached)

/-- What the host has now read: byte k from address + k. -/
def noteRead (r : Vector (Option Byte) 19) (a : Nat) : List Byte → Vector (Option Byte) 19
  | [] => r
  | b :: bs => noteRead (r.setIfInBounds a (some b)) (a + 1) bs

/-- A transfer of n registers stays inside the register map: addr + n - 1 ≤ 0x12 (70_reset_and_hazards.md R243, U6). -/
def transferFits (a n : Nat) : Bool := decide (a + n ≤ chipSize)

/-- The chip register image when an access begins (what the chip itself changed since the access before). -/
def State.chipNow (s : State) : ChipImage := chipChange s.chip s.access.chipBefore

/-- The bytes the next read of n registers at a brings. -/
def State.readData (a n : Nat) (s : State) : List Byte := transferRead s.access.bus s.chipNow a n

/-- 20_memory.md R44 `readRegister`: the whole transfer is one access. -/
def State.transportRead (a n : Nat) (s : State) : State :=
  ((s.setChip (chipChange s.chipNow s.access.chipAfter)).endAccess).setLastRead
    (noteRead s.lastRead a (s.readData a n))

/-- 20_memory.md R44 `writeRegister`: fire-and-forget, the whole transfer one access. -/
def State.transportWrite (a : Nat) (bs : List Byte) (s : State) : State :=
  (s.setChip (chipChange (transferWrite s.access.bus s.chipNow a bs) s.access.chipAfter)).endAccess

/-- What the host has read, but for n registers from a on. -/
def forgetRead (r : Vector (Option Byte) 19) (a : Nat) : Nat → Vector (Option Byte) 19
  | 0 => r
  | n + 1 => forgetRead (r.setIfInBounds a none) (a + 1) n

/-- The host's reads of the date block are no longer what the chip holds: DT.ENC's bytes have replaced all seven
registers (41_datetime.md R141). -/
def State.forgetDateBlock (s : State) : State := s.setLastRead (forgetRead s.lastRead 0x00 7)

/-- 70_reset_and_hazards.md R237, R243: a written byte keeps one protected field: it carries the bits that the host's
latest read of the register brought (notes/assumptions/11). -/
def keepsField (last : Option Byte) (new : Byte) (f : ChipField) : Bool :=
  match last with
  | some old => old &&& f.mask == new &&& f.mask
  | none => false

/-- 70_reset_and_hazards.md R237, U7: a written byte changes no BSY, OSF or RSV bit of its register. -/
def keepsProtected (r : Vector (Option Byte) 19) (a : Nat) (new : Byte) : Bool :=
  ChipField.all.all fun f => !(f.isProtected && f.row.reg.address == a) || keepsField (Option.join r[a]?) new f

/-- Every byte of a transfer keeps the protected bits of its register. -/
def allKeepProtected (r : Vector (Option Byte) 19) (a : Nat) : List Byte → Bool
  | [] => true
  | b :: bs => keepsProtected r a b && allKeepProtected r (a + 1) bs

end Sys2Proof.Machine
end

