-- ==== Sys2Proof/Machine/Bcd.lean ====
section
/-! DEFINITION. The BCD codec: BCD.ENC (40_bcd.md R100) and BCD.DEC (R101). -/

namespace Sys2Proof.Machine

/-- `((v div 10) << 4) | (v mod 10)`: tens in bits 7:4, ones in bits 3:0 (R100). -/
def bcdByte (v : Nat) : Byte := BitVec.ofNat 8 ((v / 10) <<< 4 ||| v % 10)

/-- R100: BCD.ENC. -/
def bcdEnc (v : Int) : Except CodecError Byte :=
  if v < 0 ∨ v > 99 then .error rangeError else .ok (bcdByte v.toNat)

/-- R101: BCD.DEC; no digit is checked (90_conflicts.md C1). -/
def bcdDec (t o : Nibble) : Byte := BitVec.ofNat 8 (fromBcdNibbles t.toNat o.toNat)

/-- BCD.ENC v (R100). -/
def execBcdEnc (v : Int) (s : State) : Host.Outcome State Fault Refusal :=
  .next (s.answer ((bcdEnc v).map .byte))

/-- BCD.DEC t, o (R101): "no failure mode". -/
def execBcdDec (t o : Nibble) (s : State) : Host.Outcome State Fault Refusal :=
  .next (s.answer (.ok (.value (bcdDec t o))))

end Sys2Proof.Machine
end

