-- ==== Sys2Proof/Machine/DateTime.lean ====
section
/-! DEFINITION. The DateTime codec: DT.DEC (41_datetime.md R120 to R133) and DT.ENC (R134 to R141). Fields are read
through the field table (20_memory.md R43), never by a native bit order (R46). -/

namespace Sys2Proof.Machine

/-- The BCD value of two digits, E_DIGIT(i) where one is above 9 (R121 to R131). -/
def decDigits (i t o : Nat) : Except CodecError Nat :=
  if digitOk t && digitOk o then .ok (fromBcdNibbles t o) else .error (digitError i)

/-- E_FIELD(i) for a value outside lo..hi (R121 to R130). -/
def inRange (i lo hi v : Nat) : Except CodecError Nat :=
  if v < lo ∨ v > hi then .error (fieldError i) else .ok v

/-- R121: dec_sec. -/
def decSec (b : Byte) : Except CodecError Nat := do
  let v ← decDigits 0 (ChipField.SEC_TENS.get b) (ChipField.SEC_ONES.get b)
  inRange 0 0 59 v

/-- R122: dec_min. -/
def decMin (b : Byte) : Except CodecError Nat := do
  let v ← decDigits 1 (ChipField.MIN_TENS.get b) (ChipField.MIN_ONES.get b)
  inRange 1 0 59 v

/-- R124: dec_hour24. -/
def decHour24 (b : Byte) : Except CodecError Nat := do
  let v ← decDigits 2 (ChipField.HR_TENS.get b) (ChipField.HR_ONES.get b)
  inRange 2 0 23 ((if ChipField.HR_PM20.get b = bit20Value then 20 else 0) + v)

/-- R125: dec_hour12_resolve. -/
def decHour12Resolve (b : Byte) : Except CodecError Nat := do
  let v ← decDigits 2 (ChipField.HR_TENS.get b) (ChipField.HR_ONES.get b)
  let h12 ← inRange 2 1 12 v
  return h12 % 12 + (if ChipField.HR_PM20.get b = pmValue then 12 else 0)

/-- R127: dec_hour12_source; the AM/PM bit is not read. -/
def decHour12Source (b : Byte) : Except CodecError Nat :=
  decDigits 2 (ChipField.HR_TENS.get b) (ChipField.HR_ONES.get b)

/-- R123: dec_hour, mode dispatch; R126: under REJECT, E_MODE12(2) before any digit check. -/
def decHour (policy : Hour12Policy) (b : Byte) : Except CodecError Nat :=
  if ChipField.HR_MODE12.get b = mode12Value then
    match policy with
    | .RESOLVE => decHour12Resolve b
    | .REJECT => .error mode12Error
    | .SOURCE => decHour12Source b
  else decHour24 b

/-- R128: dec_wday, a 3-bit integer, no BCD. -/
def decWday (b : Byte) : Except CodecError Nat :=
  if ChipField.WD_DAY.get b = 0 then .error (fieldError 3) else .ok (ChipField.WD_DAY.get b)

/-- R129: dec_day. -/
def decDay (b : Byte) : Except CodecError Nat := do
  let v ← decDigits 4 (ChipField.DATE_TENS.get b) (ChipField.DATE_ONES.get b)
  inRange 4 1 31 v

/-- R130: dec_month; the century bit is not read. -/
def decMonth (b : Byte) : Except CodecError Nat := do
  let v ← decDigits 5 (ChipField.MON_TENS.get b) (ChipField.MON_ONES.get b)
  inRange 5 1 12 v

/-- R131: dec_year. -/
def decYear (epoch : EpochBase) (b : Byte) : Except CodecError Nat := do
  let v ← decDigits 6 (ChipField.YR_TENS.get b) (ChipField.YR_ONES.get b)
  return epoch.val + v

/-- R120: DT.DEC; the first failing field in register order is reported (R145). -/
def dtDec (epoch : EpochBase) (policy : Hour12Policy) (p : PackedDate) : Except CodecError CalendarTime := do
  let sec ← decSec p.seconds
  let min ← decMin p.minutes
  let hour ← decHour policy p.hours
  let wday ← decWday p.weekday
  let day ← decDay p.date
  let month ← decMonth p.monthCentury
  let year ← decYear epoch p.year
  return {
    second := BitVec.ofNat 8 sec, minute := BitVec.ofNat 8 min, hour := BitVec.ofNat 8 hour,
    weekday := BitVec.ofNat 8 wday, day := BitVec.ofNat 8 day, month := BitVec.ofNat 8 month,
    year := BitVec.ofNat 16 year }

/-- E_RANGE(i) for an operand field outside lo..hi (R134). -/
def checkRange (i lo hi v : Nat) : Except CodecError Unit :=
  if v < lo ∨ v > hi then .error (rangeErrorAt i) else .ok ()

/-- R135: enc_sec and enc_min. -/
def encSec (s : Nat) : Byte := bcdByte s

/-- R135: enc_min is the same as enc_sec. -/
def encMin (m : Nat) : Byte := bcdByte m

/-- R136: enc_hour, 24-hour mode with the bit20 convention. -/
def encHour (h : Nat) : Byte :=
  if h ≥ 20 then BitVec.ofNat 8 (0 <<< 6 ||| 1 <<< 5 ||| 0 <<< 4 ||| (h - 20))
  else BitVec.ofNat 8 (0 <<< 6 ||| 0 <<< 5 ||| (h / 10) <<< 4 ||| h % 10)

/-- R137: enc_wday. -/
def encWday (w : Nat) : Byte := BitVec.ofNat 8 w

/-- R138: enc_day. -/
def encDay (d : Nat) : Byte := bcdByte d

/-- R139: enc_month; the century bit is written 0. -/
def encMonth (mo : Nat) : Byte := bcdByte mo

/-- R140: enc_year. -/
def encYear (epoch : EpochBase) (y : Nat) : Byte := bcdByte (y - epoch.val)

/-- R134: DT.ENC; the first field out of range in register order is reported (R145). -/
def dtEnc (epoch : EpochBase) (t : CalendarTime) : Except CodecError PackedDate := do
  checkRange 0 0 59 t.second.toNat
  checkRange 1 0 59 t.minute.toNat
  checkRange 2 0 23 t.hour.toNat
  checkRange 3 1 7 t.weekday.toNat
  checkRange 4 1 31 t.day.toNat
  checkRange 5 1 12 t.month.toNat
  checkRange 6 epoch.val (epoch.val + 99) t.year.toNat
  return {
    seconds := encSec t.second.toNat, minutes := encMin t.minute.toNat, hours := encHour t.hour.toNat,
    weekday := encWday t.weekday.toNat, date := encDay t.day.toNat, monthCentury := encMonth t.month.toNat,
    year := encYear epoch t.year.toNat }

/-- DT.DEC p0, …, p6 (R120). -/
def execDtDec (p : PackedDate) (s : State) : Host.Outcome State Fault Refusal :=
  .next (s.answer ((dtDec s.epochBase s.hour12Policy p).map .calendar))

/-- DT.ENC sec, min, hour, wday, day, month, year (R134). -/
def execDtEnc (t : CalendarTime) (s : State) : Host.Outcome State Fault Refusal :=
  .next (s.answer ((dtEnc s.epochBase t).map .registers))

end Sys2Proof.Machine
end

