-- ==== Sys2Proof/Machine/FieldPacker.lean ====
section
/-! DEFINITION. The register field packer/unpacker: FLD.GET (42_field.md R160) and FLD.SET (R161). No access right is
enforced (R166). -/

namespace Sys2Proof.Machine

/-- R160: FLD.GET. -/
def fldGet (b m : Byte) : Except CodecError Byte :=
  if contiguous m then .ok (maskedValue b m) else .error maskError

/-- `(b & ~m) | (v << l)` (R161). -/
def packField (b m v : Byte) : Byte := (b &&& ~~~m) ||| (v <<< ctz m)

/-- R161: FLD.SET; E_MASK comes before E_RANGE. -/
def fldSet (b m v : Byte) : Except CodecError Byte :=
  if contiguous m then
    if v.toNat > 2 ^ popcount m - 1 then .error rangeError else .ok (packField b m v)
  else .error maskError

/-- FLD.GET b, m (R160). -/
def execFldGet (b m : Byte) (s : State) : Host.Outcome State Fault Refusal :=
  .next (s.answer ((fldGet b m).map .value))

/-- FLD.SET b, m, v (R161). -/
def execFldSet (b m v : Byte) (s : State) : Host.Outcome State Fault Refusal :=
  .next (s.answer ((fldSet b m v).map .byte))

end Sys2Proof.Machine
end

