-- ==== Sys2Proof/Machine/Dispatch.lean ====
section
/-! DEFINITION. One arm for each operation of the opcode table. -/

namespace Sys2Proof.Machine

def exec (i : Instr) (s : State) : Host.Outcome State Fault Refusal :=
  match i with
  | .bcdEnc v => Sys2Proof.Machine.execBcdEnc v s
  | .bcdDec tens ones => Sys2Proof.Machine.execBcdDec tens ones s
  | .dtDec p => Sys2Proof.Machine.execDtDec p s
  | .dtEnc t => Sys2Proof.Machine.execDtEnc t s
  | .fldGet b m => Sys2Proof.Machine.execFldGet b m s
  | .fldSet b m v => Sys2Proof.Machine.execFldSet b m v s

end Sys2Proof.Machine
end

