-- ==== Sys2Proof/Machine/Fetch.lean ====
section
/-! DEFINITION. What the block does with the bytes at its request port (10_state.md R24; 20_memory.md R52;
30_encoding.md R66, R69). -/

namespace Sys2Proof.Machine

/-- The block takes one frame from the request port and performs it completely. An undefined OP raises E_OP (R66); a
truncated frame is refused (R69). -/
def blockStep (s : State) : Host.Outcome State Fault Refusal :=
  match decode s.request with
  | .request i rest => exec i (s.setRequest rest)
  | .illegal op rest => .next ((s.setRequest rest).raise (illegalOpError op))
  | .truncated => .refused .truncatedFrame

/-- Present an opcode-table word as the next request of the port, before any bytes that wait there. -/
def presentWord (nbits w : Nat) (s : State) : State := s.setRequest (tableFrame nbits w ++ s.request)

end Sys2Proof.Machine
end

