-- ==== Sys2Proof/Machine/Assembler.lean ====
section
/-! DEFINITION. Assembly and disassembly of block requests (30_encoding.md R70, R71, R72). -/

namespace Sys2Proof.Machine

/-- An operand value for a register byte or an 8-bit port (R70: "bytes"). -/
def byteOperand (v : Int) : Host.Outcome Byte Fault Refusal :=
  if 0 ≤ v ∧ v ≤ 255 then .next (BitVec.ofInt 8 v) else .refused .operandRange

/-- An operand value for TENS or ONES (R70: "t and o in 0..15"). -/
def nibbleOperand (v : Int) : Host.Outcome Nibble Fault Refusal :=
  if 0 ≤ v ∧ v ≤ 15 then .next (BitVec.ofInt 4 v) else .refused .operandRange

/-- An operand value for year (R70: "year in 0..65535"). -/
def yearOperand (v : Int) : Host.Outcome Half Fault Refusal :=
  if 0 ≤ v ∧ v ≤ 65535 then .next (BitVec.ofInt 16 v) else .refused .operandRange

/-- The operand values of a list of register bytes. -/
def byteOperands : List Int → Host.Outcome (List Byte) Fault Refusal
  | [] => .next []
  | v :: vs => andThen (byteOperand v) fun b => andThen (byteOperands vs) fun bs => .next (b :: bs)

/-- `BCD.ENC v` (R70: "v in -32768..32767"). -/
def assembleBcdEnc : List Int → Host.Outcome Instr Fault Refusal
  | [v] => if vInPort v then .next (.bcdEnc v) else .refused .operandRange
  | _ => .refused .operandCount

/-- `BCD.DEC t, o`. -/
def assembleBcdDec : List Int → Host.Outcome Instr Fault Refusal
  | [t, o] => andThen (nibbleOperand t) fun t' => andThen (nibbleOperand o) fun o' => .next (.bcdDec t' o')
  | _ => .refused .operandCount

/-- `DT.DEC p0, p1, p2, p3, p4, p5, p6`. -/
def assembleDtDec (vs : List Int) : Host.Outcome Instr Fault Refusal :=
  andThen (byteOperands vs) fun bs =>
    match bs with
    | [p0, p1, p2, p3, p4, p5, p6] => .next (.dtDec ⟨p0, p1, p2, p3, p4, p5, p6⟩)
    | _ => .refused .operandCount

/-- `DT.ENC sec, min, hour, wday, day, month, year`. -/
def assembleDtEnc : List Int → Host.Outcome Instr Fault Refusal
  | [s, mi, h, w, d, mo, y] =>
    andThen (byteOperands [s, mi, h, w, d, mo]) fun bs => andThen (yearOperand y) fun y' =>
      match bs with
      | [s', mi', h', w', d', mo'] => .next (.dtEnc ⟨s', mi', h', w', d', mo', y'⟩)
      | _ => .refused .operandCount
  | _ => .refused .operandCount

/-- `FLD.GET b, m`. -/
def assembleFldGet (vs : List Int) : Host.Outcome Instr Fault Refusal :=
  andThen (byteOperands vs) fun bs =>
    match bs with
    | [b, m] => .next (.fldGet b m)
    | _ => .refused .operandCount

/-- `FLD.SET b, m, v`. -/
def assembleFldSet (vs : List Int) : Host.Outcome Instr Fault Refusal :=
  andThen (byteOperands vs) fun bs =>
    match bs with
    | [b, m, v] => .next (.fldSet b m v)
    | _ => .refused .operandCount

/-- R71: `BCD.DECB p` = `BCD.DEC p[7:4], p[3:0]`, the frame `02 p`. -/
def assembleBcdDecb (vs : List Int) : Host.Outcome Instr Fault Refusal :=
  andThen (byteOperands vs) fun bs =>
    match bs with
    | [p] => .next (.bcdDec (tensOf p) (onesOf p))
    | _ => .refused .operandCount

/-- R71: `FLD.CLR b, m` = `FLD.SET b, m, 0`. -/
def assembleFldClr (vs : List Int) : Host.Outcome Instr Fault Refusal :=
  andThen (byteOperands vs) fun bs =>
    match bs with
    | [b, m] => .next (.fldSet b m 0)
    | _ => .refused .operandCount

/-- R71: `FLD.FILL b, m` = `FLD.SET b, m, (m >> ctz(m))`, defined only for a contiguous m. -/
def assembleFldFill (vs : List Int) : Host.Outcome Instr Fault Refusal :=
  andThen (byteOperands vs) fun bs =>
    match bs with
    | [b, m] => if contiguous m then .next (.fldSet b m (m >>> ctz m)) else .refused .illegalPseudo
    | _ => .refused .operandCount

/-- R70, R71: the one request a line's mnemonic and operand values stand for. -/
def assemble (m : Mnemonic) (vs : List Int) : Host.Outcome Instr Fault Refusal :=
  match m with
  | .bcdEnc => assembleBcdEnc vs
  | .bcdDec => assembleBcdDec vs
  | .dtDec => assembleDtDec vs
  | .dtEnc => assembleDtEnc vs
  | .fldGet => assembleFldGet vs
  | .fldSet => assembleFldSet vs
  | .bcdDecb => assembleBcdDecb vs
  | .fldClr => assembleFldClr vs
  | .fldFill => assembleFldFill vs

/-- The spelling of each mnemonic (R65, R71). -/
def Mnemonic.text : Mnemonic → String
  | .bcdEnc => "BCD.ENC"
  | .bcdDec => "BCD.DEC"
  | .dtDec => "DT.DEC"
  | .dtEnc => "DT.ENC"
  | .fldGet => "FLD.GET"
  | .fldSet => "FLD.SET"
  | .bcdDecb => "BCD.DECB"
  | .fldClr => "FLD.CLR"
  | .fldFill => "FLD.FILL"

/-- Every mnemonic. -/
def Mnemonic.all : List Mnemonic :=
  [.bcdEnc, .bcdDec, .dtDec, .dtEnc, .fldGet, .fldSet, .bcdDecb, .fldClr, .fldFill]

/-- The mnemonic a word spells. -/
def mnemonicOfText (w : String) : Option Mnemonic := Mnemonic.all.find? fun m => m.text == w

/-- One digit of a printed number. -/
def digitChar (n : Nat) : Char :=
  (['0', '1', '2', '3', '4', '5', '6', '7', '8', '9', 'A', 'B', 'C', 'D', 'E', 'F'][n]?).getD '0'

/-- A byte as two hexadecimal digits. -/
def hexByte (b : Byte) : List Char := [digitChar (bits b 7 4), digitChar (bits b 3 0)]

/-- R72: "`0x`-prefixed two-digit hexadecimal". -/
def hexText (b : Byte) : List Char := ['0', 'x'] ++ hexByte b

/-- R72: "year as four digits". -/
def yearText (y : Half) : List Char := ['0', 'x'] ++ hexByte (highByte y) ++ hexByte (lowByte y)

/-- The decimal digits of a number of at most `fuel` digits. -/
def decimalDigits : Nat → Nat → List Char
  | 0, _ => []
  | fuel + 1, n => if n < 10 then [digitChar n] else decimalDigits fuel (n / 10) ++ [digitChar (n % 10)]

/-- R72: "V as signed decimal"; V has at most five digits. -/
def signedText (v : Int) : List Char :=
  if v < 0 then '-' :: decimalDigits 5 v.natAbs else decimalDigits 5 v.natAbs

/-- The mnemonic of an instruction's own row. -/
def Instr.mnemonic : Instr → Mnemonic
  | .bcdEnc _ => .bcdEnc
  | .bcdDec _ _ => .bcdDec
  | .dtDec _ => .dtDec
  | .dtEnc _ => .dtEnc
  | .fldGet _ _ => .fldGet
  | .fldSet _ _ _ => .fldSet

/-- The operands of an instruction as R72 prints them, in frame order. -/
def operandTexts : Instr → List (List Char)
  | .bcdEnc v => [signedText v]
  | .bcdDec t o => [hexText (t.setWidth 8), hexText (o.setWidth 8)]
  | .dtDec p => p.bytes.map hexText
  | .dtEnc t => [t.second, t.minute, t.hour, t.weekday, t.day, t.month].map hexText ++ [yearText t.year]
  | .fldGet b m => [hexText b, hexText m]
  | .fldSet b m v => [hexText b, hexText m, hexText v]

/-- Operands separated by commas (R70). -/
def joinOperands : List (List Char) → List Char
  | [] => []
  | [w] => w
  | w :: ws => w ++ [',', ' '] ++ joinOperands ws

/-- R72: an instruction's line. -/
def instrText (i : Instr) : String :=
  String.ofList ((Instr.mnemonic i).text.toList ++ [' '] ++ joinOperands (operandTexts i))

/-- R72: "An illegal OP prints as `.byte 0xNN`". -/
def illegalText (op : Byte) : String := String.ofList (".byte ".toList ++ hexText op)

/-- R72: the line of the first frame of a byte string; none for a truncated frame. -/
def disassemble (bs : List Byte) : Option String :=
  match decode bs with
  | .request i _ => some (instrText i)
  | .illegal op _ => some (illegalText op)
  | .truncated => none

end Sys2Proof.Machine
end

