-- ==== Sys2Proof/Machine/HostAgent.lean ====
section
/-! DEFINITION. The host, the one agent that drives the block and the chip (60_exceptions.md R214,
70_reset_and_hazards.md R243 to R245): what one line of its program does (30_encoding.md R70). -/

namespace Sys2Proof.Machine

/-- The line that `label:` marks. -/
def labelLine (l : String) : List HostLine → Option Nat
  | [] => none
  | a :: rest => if a = .label l then some 0 else (labelLine l rest).map (· + 1)

/-- `goto label`: "continues there". -/
def hostGoto (l : String) (s : State) : Host.Outcome State Fault Refusal :=
  match labelLine l s.program with
  | some n => .next (s.setLine n)
  | none => .refused (.noLabel l)

/-- Present one complete request frame and wait for its response (10_state.md R24, 20_memory.md R52). -/
def State.present (x : Option String) (i : Instr) (s : State) : State :=
  ((s.setRequest (encode i)).setResponse none).setPhase (.awaiting x)

/-- A request line: its operands are read, and its one request is presented (30_encoding.md R70, R71). -/
def hostRequest (x : Option String) (m : Mnemonic) (ops : List Operand) (s : State) :
    Host.Outcome State Fault Refusal :=
  andThen (operandValues s.names ops) fun vs => andThen (assemble m vs) fun i => .next (s.present x i)

/-- `name = RD addr, n` (20_memory.md R44; 70_reset_and_hazards.md R243: "beyond 0x12: refused"). -/
def hostRead (x : String) (addr : Byte) (n : Nat) (s : State) : Host.Outcome State Fault Refusal :=
  if transferFits addr.toNat n then
    .next (((s.transportRead addr.toNat n).bind (some x) (.bytes (s.readData addr.toNat n))).nextLine)
  else .refused .chipAddress

/-- `WR addr, v0, …` of these bytes (20_memory.md R44; 70_reset_and_hazards.md R237, R243). -/
def hostWriteBytes (addr : Byte) (bs : List Byte) (s : State) : Host.Outcome State Fault Refusal :=
  if transferFits addr.toNat bs.length then
    if allKeepProtected s.lastRead addr.toNat bs then .next ((s.transportWrite addr.toNat bs).nextLine)
    else .refused .protectedBits
  else .refused .chipAddress

/-- 41_datetime.md R141: the bytes of `WR 0x00, e` where e is a DT.ENC result: "The host writes the block with one 7-byte
transfer at address 0x00". -/
def dateBlockOf (names : Names) (addr : Byte) (vs : List Operand) : Option PackedDate :=
  match vs with
  | [.name x] =>
    match names.lookup x with
    | some (.response (.ok (.registers p))) => if addr = 0x00 then some p else none
    | _ => none
  | _ => none

/-- The date block is written in full: DT.ENC's zeros in its unused bits are R141's, so no read is carried back. -/
def hostWriteDateBlock (p : PackedDate) (s : State) : Host.Outcome State Fault Refusal :=
  .next (((s.transportWrite 0x00 p.bytes).forgetDateBlock).nextLine)

/-- `WR addr, v0, …` (30_encoding.md R70). -/
def hostWrite (addr : Byte) (vs : List Operand) (s : State) : Host.Outcome State Fault Refusal :=
  match dateBlockOf s.names addr vs with
  | some p => hostWriteDateBlock p s
  | none => andThen (operandValues s.names vs) fun ns => andThen (byteOperands ns) fun bs => hostWriteBytes addr bs s

/-- `x = y + n`, a host integer assignment (30_encoding.md R70). -/
def hostAdd (x y : String) (n : Int) (s : State) : Host.Outcome State Fault Refusal :=
  andThen (lookupName s.names y) fun v =>
    match v with
    | .int k => .next ((s.bind (some x) (.int (k + n))).nextLine)
    | .response _ => .refused (.wrongKind y)
    | .bytes _ => .refused (.wrongKind y)

/-- One line of the host program. -/
def hostLine (a : HostLine) (s : State) : Host.Outcome State Fault Refusal :=
  match a with
  | .request x m ops => hostRequest x m ops s
  | .rd x addr n => hostRead x addr n s
  | .wr addr vs => hostWrite addr vs s
  | .assign x n => .next ((s.bind (some x) (.int n)).nextLine)
  | .add x y n => hostAdd x y n s
  | .label _ => .next s.nextLine
  | .goto l => hostGoto l s
  | .ifGoto c l => andThen (c.holds s.names) fun b => if b then hostGoto l s else .next s.nextLine
  | .ifStop c => andThen (c.holds s.names) fun b => if b then .next (s.setPhase .stopped) else .next s.nextLine
  | .stop => .next (s.setPhase .stopped)

/-- The host takes the response it waits for, and goes on (20_memory.md R52). -/
def State.take (x : Option String) (r : Response) (s : State) : State :=
  ((s.bind x (.response r)).setPhase .running).nextLine

/-- What the host does when no request is at the port. A run has ended at `stop` or past the last line
(70_reset_and_hazards.md R245): nothing moves any more. R245 leaves open whether the chip's timekeeping goes on where no
transport access happens: the image is held as it was at the latest access (DESIGN CHOICE, notes/assumptions/26). -/
def hostStep (s : State) : Host.Outcome State Fault Refusal :=
  match s.phase with
  | .stopped => .next s
  | .awaiting x =>
    match s.response with
    | some r => .next (s.take x r)
    | none => .next s
  | .running =>
    match s.program[s.line]? with
    | some a => hostLine a s
    | none => .next s

/-- 70_reset_and_hazards.md R244: a host program is launched: no request is in flight, the instance parameters are as they
were bound, and the chip register image is whatever it is. That the launch binds no name, counts no register as read, shows
no earlier response and begins at line 0 in phase running is DESIGN CHOICE (notes/assumptions/27): R244 says nothing of
these, and 95_test_vectors.md L3 counts the host names as part of a start state. -/
def State.launch (program : List HostLine) (s : State) : State :=
  { s with request := [], response := none, lastRead := Vector.replicate 19 none, program := program, line := 0,
           names := [], phase := .running }

end Sys2Proof.Machine
end

