-- ==== Sys2Proof/Machine/Step.lean ====
section
/-! DEFINITION. One step of the system of one host and one block (20_memory.md R52, 60_exceptions.md R214): while bytes
are at the request port the block moves, else the host. -/

namespace Sys2Proof.Machine

/-- 20_memory.md R52: the block answers a presented request before the host goes on. -/
def step (s : State) : Host.Outcome State Fault Refusal :=
  match s.request with
  | [] => hostStep s
  | _ :: _ => blockStep s

/-- The state with one more frame at the front of the request port, which is where the block reads its next request
(notes/assumptions/6). -/
def State.withFetchWord (s : State) (nbits w : Nat) : State := presentWord nbits w s

end Sys2Proof.Machine
end

