-- ==== Sys2Proof/Machine/AsmText.lean ====
section
/-! DEFINITION. The text form of host programs (30_encoding.md R70): words, lines and programs read from characters. -/

namespace Sys2Proof.Machine

/-- One word or one punctuation mark of a line. -/
inductive Token where
  | word (w : List Char)
  | mark (c : Char)
  deriving DecidableEq, Repr

/-- The characters of names, mnemonics and literals. -/
def isWordChar (c : Char) : Bool := c.isAlphanum || c == '_' || c == '.' || c == '-'

/-- A finished word, if it has a character. -/
def flushWord : List Char → List Token
  | [] => []
  | w => [.word w]

/-- The tokens of a line whose current word is `acc`; a semicolon begins a comment (95_test_vectors.md L3). -/
def tokensFrom (acc : List Char) : List Char → List Token
  | [] => flushWord acc
  | c :: cs =>
    if isWordChar c then tokensFrom (acc ++ [c]) cs
    else if c == ';' then flushWord acc
    else if c == ' ' then flushWord acc ++ tokensFrom [] cs
    else flushWord acc ++ .mark c :: tokensFrom [] cs

/-- The tokens of a line. -/
def tokens (line : String) : List Token := tokensFrom [] line.toList

/-- The value of a digit in a base. -/
def digitValue (base : Nat) (c : Char) : Option Nat :=
  let d := if c.isDigit then some (c.toNat - 48)
    else if 'A' ≤ c ∧ c ≤ 'F' then some (c.toNat - 55)
    else if 'a' ≤ c ∧ c ≤ 'f' then some (c.toNat - 87)
    else none
  d.filter fun v => decide (v < base)

/-- The number that digits write, after a leading part of value `acc`. -/
def numberFrom (base acc : Nat) : List Char → Option Nat
  | [] => some acc
  | c :: cs =>
    match digitValue base c with
    | some d => numberFrom base (acc * base + d) cs
    | none => none

/-- A number of at least one digit. -/
def numberOf (base : Nat) : List Char → Option Nat
  | [] => none
  | cs => numberFrom base 0 cs

/-- R70: a literal is decimal (`42`, `-1`) or hexadecimal (`0x2A`). -/
def literalOf : List Char → Option Int
  | '0' :: 'x' :: cs => (numberOf 16 cs).map Int.ofNat
  | '-' :: cs => (numberOf 10 cs).map fun n => -(n : Int)
  | cs => (numberOf 10 cs).map Int.ofNat

/-- A literal that is not negative. -/
def naturalOf (w : List Char) : Option Nat :=
  match literalOf w with
  | some v => if 0 ≤ v then some v.toNat else none
  | none => none

/-- How a name or a label is spelled: a letter, then letters, digits and underscores. R70 gives no grammar of names: this is
the model's choice (DESIGN CHOICE, notes/assumptions/24). -/
def nameOf : List Char → Option String
  | [] => none
  | c :: cs => if c.isAlpha && cs.all (fun d => d.isAlphanum || d == '_') then some (String.ofList (c :: cs)) else none

/-- The field of a DT.DEC record that a word selects. -/
def partOfText (w : List Char) : Option CalendarPart :=
  if w = "second".toList then some .second
  else if w = "minute".toList then some .minute
  else if w = "hour".toList then some .hour
  else if w = "weekday".toList then some .weekday
  else if w = "day".toList then some .day
  else if w = "month".toList then some .month
  else if w = "year".toList then some .year
  else none

/-- The characters before and after the first dot. -/
def splitDot : List Char → Option (List Char × List Char)
  | [] => none
  | c :: cs => if c == '.' then some ([], cs) else (splitDot cs).map fun p => (c :: p.1, p.2)

/-- R70: an operand of one word: a literal, a named field mask, `name.part` or a bound name. -/
def wordOperand (w : List Char) : Option Operand :=
  match literalOf w with
  | some v => some (.lit v)
  | none =>
    match fieldOfText (String.ofList w) with
    | some f => some (.mask f)
    | none =>
      match splitDot w with
      | some (x, c) =>
        match nameOf x, partOfText c with
        | some y, some d => some (.part y d)
        | _, _ => none
      | none => (nameOf w).map .name

/-- R70: `name[k]`. -/
def indexOperand (w k : List Char) : Option Operand :=
  match nameOf w, naturalOf k with
  | some x, some n => some (.byteOf x n)
  | _, _ => none

/-- One operand more. -/
def consOperand (o : Option Operand) (os : Option (List Operand)) : Option (List Operand) :=
  match o, os with
  | some a, some as => some (a :: as)
  | _, _ => none

/-- R70: "comma-separated operands in frame order". -/
def operandsOf : List Token → Option (List Operand)
  | [.word w] => consOperand (wordOperand w) (some [])
  | [.word w, .mark '[', .word k, .mark ']'] => consOperand (indexOperand w k) (some [])
  | .word w :: .mark ',' :: ts => consOperand (wordOperand w) (operandsOf ts)
  | .word w :: .mark '[' :: .word k :: .mark ']' :: .mark ',' :: ts => consOperand (indexOperand w k) (operandsOf ts)
  | _ => none

/-- A comparison of a condition. -/
def compareOf (make : String → Int → Cond) (x k : List Char) : Option Cond :=
  match nameOf x, literalOf k with
  | some y, some n => some (make y n)
  | _, _ => none

/-- `STATUS(name)` against OK. -/
def statusCondOf (make : String → Cond) (f x ok : List Char) : Option Cond :=
  if f = "STATUS".toList ∧ ok = "OK".toList then (nameOf x).map make else none

/-- R70: a condition, and the tokens after it. -/
def condOf : List Token → Option (Cond × List Token)
  | .word f :: .mark '(' :: .word x :: .mark ')' :: .mark '!' :: .mark '=' :: .word ok :: ts =>
    (statusCondOf .statusNotOk f x ok).map fun c => (c, ts)
  | .word f :: .mark '(' :: .word x :: .mark ')' :: .mark '=' :: .mark '=' :: .word ok :: ts =>
    (statusCondOf .statusOk f x ok).map fun c => (c, ts)
  | .word x :: .mark '=' :: .mark '=' :: .word k :: ts => (compareOf .eq x k).map fun c => (c, ts)
  | .word x :: .mark '!' :: .mark '=' :: .word k :: ts => (compareOf .ne x k).map fun c => (c, ts)
  | .word x :: .mark '<' :: .word k :: ts => (compareOf .lt x k).map fun c => (c, ts)
  | _ => none

/-- `if <cond> goto label` or `if <cond> stop`, after `if`. -/
def ifOf (ts : List Token) : Option HostLine :=
  match condOf ts with
  | some (c, [.word g, .word l]) => if g = "goto".toList then (nameOf l).map (.ifGoto c) else none
  | some (c, [.word g]) => if g = "stop".toList then some (.ifStop c) else none
  | _ => none

/-- A register address: a byte literal. -/
def addressOf (w : List Char) : Option Byte :=
  match naturalOf w with
  | some n => if n ≤ 255 then some (BitVec.ofNat 8 n) else none
  | none => none

/-- `RD addr, n` after its name. -/
def rdOf (x : String) : List Token → Option HostLine
  | [.word a, .mark ',', .word n] =>
    match addressOf a, naturalOf n with
    | some addr, some k => some (.rd x addr k)
    | _, _ => none
  | _ => none

/-- `WR addr, v0, …` after `WR`. -/
def wrOf : List Token → Option HostLine
  | .word a :: .mark ',' :: ts =>
    match addressOf a, operandsOf ts with
    | some addr, some vs => some (.wr addr vs)
    | _, _ => none
  | _ => none

/-- A request line: mnemonic and operands. -/
def requestOf (x : Option String) (m : List Char) (ts : List Token) : Option HostLine :=
  match mnemonicOfText (String.ofList m), operandsOf ts with
  | some k, some ops => some (.request x k ops)
  | _, _ => none

/-- What stands right of `name =`. -/
def bindingOf (x : String) : List Token → Option HostLine
  | [.word n] => (literalOf n).map (.assign x)
  | [.word y, .mark '+', .word n] =>
    match nameOf y, literalOf n with
    | some z, some k => some (.add x z k)
    | _, _ => none
  | .word m :: ts => if m = "RD".toList then rdOf x ts else requestOf (some x) m ts
  | _ => none

/-- R70: one line without its label. -/
def statementOf : List Token → Option HostLine
  | .word x :: .mark '=' :: ts =>
    match nameOf x with
    | some y => bindingOf y ts
    | none => none
  | .word w :: ts =>
    if w = "stop".toList ∧ ts = [] then some .stop
    else if w = "if".toList then ifOf ts
    else if w = "WR".toList then wrOf ts
    else if w = "goto".toList then
      match ts with
      | [.word l] => (nameOf l).map .goto
      | _ => none
    else requestOf none w ts
  | _ => none

/-- The lines a statement's tokens make: none where nothing stands. -/
def statementsOf : List Token → Option (List HostLine)
  | [] => some []
  | ts => (statementOf ts).map fun a => [a]

/-- R70: one line of text: a label, a statement, both or neither. -/
def lineOf (text : String) : Option (List HostLine) :=
  match tokens text with
  | .word l :: .mark ':' :: ts =>
    match nameOf l, statementsOf ts with
    | some x, some as => some (.label x :: as)
    | _, _ => none
  | ts => statementsOf ts

/-- R70: a program, one line after the other. -/
def programOf : List String → Option (List HostLine)
  | [] => some []
  | l :: ls =>
    match lineOf l, programOf ls with
    | some as, some rest => some (as ++ rest)
    | _, _ => none

/-- The request that one line of text with literal operands stands for. -/
def assembleText (text : String) : Host.Outcome Instr Fault Refusal :=
  match lineOf text with
  | some [.request _ m ops] => andThen (operandValues [] ops) (assemble m)
  | _ => .refused .operandCount

end Sys2Proof.Machine
end

