-- ==== Sys2Proof/Safety.lean ====
section
/-! DEFINITION. What the claims call a legal value, a legal machine, a launched and a finished run, and the responses
that a run gives (10_state.md R26, 20_memory.md R52, 70_reset_and_hazards.md R244, R245). -/

namespace Sys2Proof.Machine

/-- 10_state.md R26: every field of a CalendarTime is in its legal range. -/
def calendarInRange (epoch : EpochBase) (t : CalendarTime) : Bool :=
  decide (t.second.toNat ≤ 59) && decide (t.minute.toNat ≤ 59) && decide (t.hour.toNat ≤ 23) &&
  decide (1 ≤ t.weekday.toNat) && decide (t.weekday.toNat ≤ 7) &&
  decide (1 ≤ t.day.toNat) && decide (t.day.toNat ≤ 31) &&
  decide (1 ≤ t.month.toNat) && decide (t.month.toNat ≤ 12) &&
  decide (epoch.val ≤ t.year.toNat) && decide (t.year.toNat ≤ epoch.val + 99)

/-- 41_datetime.md R141: the bits DT.ENC writes 0: P[0][7], P[1][7], P[2][7], P[2][6], P[3][7:3], P[4][7:6], P[5][7]
and P[5][6:5]. -/
def unusedBitsClear (p : PackedDate) : Bool :=
  bits p.seconds 7 7 == 0 && bits p.minutes 7 7 == 0 && bits p.hours 7 7 == 0 && bits p.hours 6 6 == 0 &&
  bits p.weekday 7 3 == 0 && bits p.date 7 6 == 0 && bits p.monthCentury 7 7 == 0 && bits p.monthCentury 6 5 == 0

/-- 60_exceptions.md R202, R203: the INFO bytes each error code comes with. -/
def errorLegal (e : CodecError) : Bool :=
  match e.code with
  | .E_RANGE => e.info == 0xFF || decide (e.info.toNat ≤ 6)
  | .E_DIGIT => decide (e.info.toNat ≤ 6) && e.info != 3
  | .E_FIELD => decide (e.info.toNat ≤ 5)
  | .E_MODE12 => e.info == 2
  | .E_MASK => e.info == 0xFF
  | .E_OP => opcodeOf e.info == none

/-- A response the block can have given: a calendar in range (41_datetime.md R133), register bytes with the unused bits
clear (R141), or a legal error (60_exceptions.md R202). -/
def responseLegal (epoch : EpochBase) (r : Response) : Bool :=
  match r with
  | .ok (.byte _) => true
  | .ok (.value _) => true
  | .ok (.calendar t) => calendarInRange epoch t
  | .ok (.registers p) => unusedBitsClear p
  | .error e => errorLegal e

/-- What a host name may be bound to. -/
def valueLegal (epoch : EpochBase) (v : HostValue) : Bool :=
  match v with
  | .response r => responseLegal epoch r
  | .bytes _ => true
  | .int _ => true

/-- The machine holds only legal responses, and its names are in canonical form. -/
def State.legal (s : State) : Bool :=
  decide (Names.wf s.names) && s.response.all (responseLegal s.epochBase) &&
    s.names.all fun p => valueLegal s.epochBase p.2

/-- 20_memory.md R52, 70_reset_and_hazards.md R244(2): the host and the block take turns: either no byte is at the request
port, and a waiting host has its response; or one complete frame is there, and the host waits for its response. -/
def State.inTurn (s : State) : Prop :=
  (s.request = [] ∧ ∀ x, s.phase = .awaiting x → ∃ r, s.response = some r) ∨
    ∃ i x, Instr.WellFormed i ∧ s.request = encode i ∧ s.phase = .awaiting x ∧ s.response = none

/-- 70_reset_and_hazards.md R245: a host program's run has ended: it executed `stop` or finished its last line, with
every request it issued answered. Its end image is that of the latest access (DESIGN CHOICE, notes/assumptions/26). -/
def State.finished (s : State) : Prop :=
  s.request = [] ∧ (s.phase = .stopped ∨ s.phase = .running ∧ s.program.length ≤ s.line)

/-- The response port of an outcome. -/
def responseOf (o : Host.Outcome State Fault Refusal) : Option Response :=
  match o with
  | .next t => t.response
  | .fault _ => none
  | .refused _ => none

/-- What the response port carries after each of the next n steps, in order. -/
def responsesGiven : Nat → State → List (Option Response)
  | 0, _ => []
  | n + 1, s =>
    match step s with
    | .next t => t.response :: responsesGiven n t
    | .fault _ => []
    | .refused _ => []

/-- The host is at this line of its program and nothing is in flight. -/
def State.atLine (a : HostLine) (s : State) : Prop :=
  s.request = [] ∧ s.phase = .running ∧ s.program[s.line]? = some a

/-- 20_memory.md R44: the byte that a transfer of `bs` at address `a` carries for the register at `b`, if it has one. -/
def carriedTo (a : Nat) (bs : List Byte) (b : Nat) : Option Byte := if a ≤ b then bs[b - a]? else none

/-- 30_encoding.md R72: a number as `0x` and so many hexadecimal digits; that they are capitals is the model's choice
(notes/assumptions/10). -/
def hexOf (digits n : Nat) : String :=
  "0x" ++ String.ofList ((List.range digits).reverse.map fun k => "0123456789ABCDEF".toList.getD (n / 16 ^ k % 16) '?')

/-- Two register bytes agree on the bits of a mask. -/
def agreeOn (m a b : Byte) : Prop := a &&& m = b &&& m

/-- Two date blocks agree on every bit that DT.DEC reads (41_datetime.md R132). -/
def agreeOnUsedBits (p q : PackedDate) : Prop :=
  agreeOn 0x7F p.seconds q.seconds ∧ agreeOn 0x7F p.minutes q.minutes ∧ agreeOn 0x7F p.hours q.hours ∧
  agreeOn 0x07 p.weekday q.weekday ∧ agreeOn 0x3F p.date q.date ∧ agreeOn 0x1F p.monthCentury q.monthCentury ∧
  p.year = q.year

/-- A date block with every unused bit, the mode bit and the century bit cleared (41_datetime.md R141, R144). -/
def clearUnusedBits (p : PackedDate) : PackedDate :=
  ⟨p.seconds &&& 0x7F, p.minutes &&& 0x7F, p.hours &&& 0x3F, p.weekday &&& 0x07, p.date &&& 0x3F,
    p.monthCentury &&& 0x1F, p.year⟩

/-- The mask of w bits from bit l up: (2^w - 1) << l (42_field.md R162). -/
def runMask (w l : Nat) : Byte := BitVec.ofNat 8 ((2 ^ w - 1) <<< l)

end Sys2Proof.Machine
end

