-- ==== Sys2Proof/Certificates/Slice0/Obligations.lean ====
section
/-! DEFINITION. The statements for the provers, one `def Obligations.<Name> : Prop` each (OBLIGATIONS.json lists them).
A conclusion `exec i s = .next (s.setResponse (some r))` says at once that the operation completes, what it answers, and
that nothing else of the state changes. -/

open Sys2Proof Sys2Proof.Machine

/-! ## Requests: encoding, decoding, fetching -/

/-- 30_encoding.md R62, R65: words written out from the encodings of the six operations, one for each family and format. -/
def Obligations.FramesOfTheSpecDecode : Prop :=
  decode [0x01, 0xFF, 0xFF] = .request (.bcdEnc (-1)) [] ∧
  decode [0x01, 0x00, 0x2A] = .request (.bcdEnc 42) [] ∧
  decode [0x02, 0x25] = .request (.bcdDec 2 5) [] ∧
  decode [0x10, 0x30, 0x15, 0x14, 0x03, 0x25, 0x09, 0x25] =
    .request (.dtDec ⟨0x30, 0x15, 0x14, 0x03, 0x25, 0x09, 0x25⟩) [] ∧
  decode [0x11, 0x1E, 0x0F, 0x0E, 0x03, 0x19, 0x09, 0x07, 0xE9] =
    .request (.dtEnc ⟨30, 15, 14, 3, 25, 9, 2025⟩) [] ∧
  decode [0x20, 0x25, 0x30] = .request (.fldGet 0x25 0x30) [] ∧
  decode [0x21, 0x8B, 0x01, 0x00] = .request (.fldSet 0x8B 0x01 0x00) [] ∧
  decode [0x03, 0x02, 0x25] = .illegal 0x03 [0x02, 0x25]

/-- 30_encoding.md R60 to R65: the frame of every well-formed instruction decodes to it, whatever bytes follow. -/
def Obligations.DecodeOfEncode : Prop :=
  ∀ (i : Instr) (rest : List Byte), i.WellFormed → decode (encode i ++ rest) = .request i rest

/-- 30_encoding.md R60, R68: the other direction. Every frame the decoder accepts is the frame of the well-formed
instruction it reads, so a byte string has one reading and no operand bit pattern makes a frame illegal. -/
def Obligations.EncodeOfDecode : Prop :=
  ∀ (bs : List Byte) (i : Instr) (rest : List Byte),
    decode bs = .request i rest → i.WellFormed ∧ bs = encode i ++ rest

/-- 30_encoding.md R69: the request length from byte 0; the decoder is total, a byte string is truncated exactly where it is
shorter than that length, the byte after the frame is the next request's OP, and a truncated frame is refused. -/
def Obligations.LengthFixedByOp : Prop :=
  (∀ op : Byte, frameLength op =
    if op = 0x01 then 3 else if op = 0x02 then 2 else if op = 0x10 then 8 else if op = 0x11 then 9
    else if op = 0x20 then 3 else if op = 0x21 then 4 else 1) ∧
  (∀ (op : Byte) (bs : List Byte), decode (op :: bs) = .truncated ↔ bs.length + 1 < frameLength op) ∧
  (∀ (op : Byte) (bs rest : List Byte) (i : Instr), decode (op :: bs) = .request i rest →
    rest = (op :: bs).drop (frameLength op)) ∧
  (∀ (op op' : Byte) (bs rest : List Byte), decode (op :: bs) = .illegal op' rest →
    op' = op ∧ rest = (op :: bs).drop (frameLength op)) ∧
  (∀ (s : State) (op : Byte) (bs : List Byte),
    s.request = op :: bs → bs.length + 1 < frameLength op → step s = .refused .truncatedFrame)

/-- 30_encoding.md R62, "As words": the fields of a frame's 8n-bit word W (R60). -/
def Obligations.WordFieldsOfFrames : Prop :=
  (∀ hi lo : Byte, let w := frameWord [0x01, hi, lo]
    wordField w 23 16 = 0x01 ∧ wordField w 15 0 = (halfOf hi lo).toNat) ∧
  (∀ t o : Nibble, let w := frameWord (encode (.bcdDec t o))
    wordField w 15 8 = 0x02 ∧ wordField w 7 4 = t.toNat ∧ wordField w 3 0 = o.toNat) ∧
  (∀ p : PackedDate, let w := frameWord (encode (.dtDec p))
    wordField w 63 56 = 0x10 ∧ ∀ i < 7, (p.bytes[i]?).map BitVec.toNat = some (wordField w (55 - 8 * i) (48 - 8 * i))) ∧
  (∀ t : CalendarTime, let w := frameWord (encode (.dtEnc t))
    wordField w 71 64 = 0x11 ∧ wordField w 63 56 = t.second.toNat ∧ wordField w 55 48 = t.minute.toNat ∧
    wordField w 47 40 = t.hour.toNat ∧ wordField w 39 32 = t.weekday.toNat ∧ wordField w 31 24 = t.day.toNat ∧
    wordField w 23 16 = t.month.toNat ∧ wordField w 15 0 = t.year.toNat) ∧
  (∀ b m : Byte, let w := frameWord (encode (.fldGet b m))
    wordField w 23 16 = 0x20 ∧ wordField w 15 8 = b.toNat ∧ wordField w 7 0 = m.toNat) ∧
  (∀ b m v : Byte, let w := frameWord (encode (.fldSet b m v))
    wordField w 31 24 = 0x21 ∧ wordField w 23 16 = b.toNat ∧ wordField w 15 8 = m.toNat ∧ wordField w 7 0 = v.toNat)

/-- 30_encoding.md R64: V is the two's-complement integer of two bytes, high byte first; TENS and ONES are the nibbles;
year is unsigned, high byte first; every other operand is one byte as it stands. -/
def Obligations.OperandAssembly : Prop :=
  (∀ (hi lo : Byte) (rest : List Byte), ∃ v : Int, decode (0x01 :: hi :: lo :: rest) = .request (.bcdEnc v) rest ∧
    v = if hi.toNat < 128 then (hi.toNat * 256 + lo.toNat : Int) else (hi.toNat * 256 + lo.toNat : Int) - 65536) ∧
  (∀ (b : Byte) (rest : List Byte), ∃ t o : Nibble, decode (0x02 :: b :: rest) = .request (.bcdDec t o) rest ∧
    t.toNat = bits b 7 4 ∧ o.toNat = bits b 3 0) ∧
  (∀ (s mi h w d mo yh yl : Byte) (rest : List Byte), ∃ y : Half,
    decode (0x11 :: s :: mi :: h :: w :: d :: mo :: yh :: yl :: rest) = .request (.dtEnc ⟨s, mi, h, w, d, mo, y⟩) rest ∧
    y.toNat = yh.toNat * 256 + yl.toNat) ∧
  (∀ (p : PackedDate) (rest : List Byte), decode (0x10 :: (p.bytes ++ rest)) = .request (.dtDec p) rest) ∧
  (∀ (b m : Byte) (rest : List Byte), decode (0x20 :: b :: m :: rest) = .request (.fldGet b m) rest) ∧
  (∀ (b m v : Byte) (rest : List Byte), decode (0x21 :: b :: m :: v :: rest) = .request (.fldSet b m v) rest)

/-- 20_memory.md R52: a step takes the frame at the request port and is exec of the decoded instruction, in the state
whose request port has moved past the frame; the model adds nothing else around exec. -/
def Obligations.StepRunsTheDecodedRequest : Prop :=
  ∀ (s : State) (i : Instr) (rest : List Byte),
    decode s.request = .request i rest → step s = exec i (s.setRequest rest)

/-- 30_encoding.md R66: each of the 250 undefined OP values is a one-byte frame; nothing is performed, and the response
is STATUS = E_OP with INFO = the OP byte. -/
def Obligations.UndefinedOpAnswersEOp : Prop :=
  ∀ (op : Byte) (rest : List Byte) (s : State),
    op ∉ [0x01, 0x02, 0x10, 0x11, 0x20, 0x21] → s.request = op :: rest →
    step s = .next ((s.setRequest rest).setResponse (some (.error ⟨.E_OP, op⟩)))

/-- 20_memory.md R52: "The responses, in order, are exactly those of performing the requests one after another in the
order presented", each the response exec gives on its own. That several frames may wait at the port is the model's
choice (notes/assumptions/9). -/
def Obligations.ResponsesInOrderPresented : Prop :=
  ∀ (is : List Instr) (s : State),
    (∀ i ∈ is, i.WellFormed) → s.request = is.flatMap encode →
    responsesGiven is.length s = is.map fun i => responseOf (exec i s)

/-- 30_encoding.md R72: disassembly. A frame prints as its mnemonic and its operands in frame order, V as signed decimal,
every other operand as `0x` and two digits, year four; an illegal OP as `.byte 0xNN`. And it is the inverse of the
assembler syntax of R70, as text. The comma with one space and the capital digits are the model's choice
(notes/assumptions/10). -/
def Obligations.DisassemblyAssembles : Prop :=
  (∀ i : Instr, i.WellFormed → assembleText (instrText i) = .next i) ∧
  (∀ (i : Instr) (rest : List Byte), i.WellFormed → disassemble (encode i ++ rest) = some (instrText i)) ∧
  (∀ v : Int, Instr.WellFormed (.bcdEnc v) → instrText (.bcdEnc v) = "BCD.ENC " ++ toString v) ∧
  (∀ t o : Nibble, instrText (.bcdDec t o) = "BCD.DEC " ++ hexOf 2 t.toNat ++ ", " ++ hexOf 2 o.toNat) ∧
  (∀ p : PackedDate, instrText (.dtDec p) = "DT.DEC " ++ ", ".intercalate ([p.seconds, p.minutes, p.hours, p.weekday,
    p.date, p.monthCentury, p.year].map fun b => hexOf 2 b.toNat)) ∧
  (∀ t : CalendarTime, instrText (.dtEnc t) = "DT.ENC " ++ ", ".intercalate (([t.second, t.minute, t.hour, t.weekday,
    t.day, t.month].map fun b => hexOf 2 b.toNat) ++ [hexOf 4 t.year.toNat])) ∧
  (∀ b m : Byte, instrText (.fldGet b m) = "FLD.GET " ++ hexOf 2 b.toNat ++ ", " ++ hexOf 2 m.toNat) ∧
  (∀ b m v : Byte, instrText (.fldSet b m v) =
    "FLD.SET " ++ hexOf 2 b.toNat ++ ", " ++ hexOf 2 m.toNat ++ ", " ++ hexOf 2 v.toNat) ∧
  (∀ (op : Byte) (rest : List Byte), op ∉ [0x01, 0x02, 0x10, 0x11, 0x20, 0x21] →
    disassemble (op :: rest) = some (".byte " ++ hexOf 2 op.toNat))

/-- 30_encoding.md R71: the pseudo-instructions and their encodings. FLD.FILL sets every bit of the field; with a mask that is
not contiguous it is refused, and the FLD.SET written out by hand gets E_MASK. -/
def Obligations.PseudoInstructionsExpand : Prop :=
  (∀ p : Byte, ∃ i, assemble .bcdDecb [p.toNat] = .next i ∧ encode i = [0x02, p]) ∧
  (∀ b m : Byte, ∃ i, assemble .fldClr [b.toNat, m.toNat] = .next i ∧ encode i = [0x21, b, m, 0x00]) ∧
  (∀ (b m : Byte) (s : State), contiguous m = true →
    ∃ i, assemble .fldFill [b.toNat, m.toNat] = .next i ∧ encode i = [0x21, b, m, m >>> ctz m] ∧
      exec i s = .next (s.setResponse (some (.ok (.byte (b ||| m)))))) ∧
  (∀ (b m v : Byte) (s : State), contiguous m = false → assemble .fldFill [b.toNat, m.toNat] = .refused .illegalPseudo ∧
    exec (.fldSet b m v) s = .next (s.setResponse (some (.error ⟨.E_MASK, 0xFF⟩))))

/-! ## BCD codec -/

/-- 40_bcd.md R100: BCD.ENC, its frame, its result and its one error. -/
def Obligations.BcdEncPacksDigits : Prop :=
  (∀ (hi lo : Byte) (rest : List Byte), decode (0x01 :: hi :: lo :: rest) = .request (.bcdEnc (halfOf hi lo).toInt) rest) ∧
  (∀ (v : Int) (s : State), 0 ≤ v → v ≤ 99 →
    ∃ b : Byte, exec (.bcdEnc v) s = .next (s.setResponse (some (.ok (.byte b)))) ∧
      (bits b 7 4 : Int) = v / 10 ∧ (bits b 3 0 : Int) = v % 10) ∧
  (∀ (v : Int) (s : State), v < 0 ∨ 99 < v →
    exec (.bcdEnc v) s = .next (s.setResponse (some (.error ⟨.E_RANGE, 0xFF⟩))))

/-- 40_bcd.md R101: BCD.DEC, its frame and its result for every pair of nibbles; no digit is checked. -/
def Obligations.BcdDecCombinesDigits : Prop :=
  (∀ (p : Byte) (rest : List Byte), ∃ t o : Nibble, decode (0x02 :: p :: rest) = .request (.bcdDec t o) rest ∧
    t.toNat = bits p 7 4 ∧ o.toNat = bits p 3 0) ∧
  (∀ (t o : Nibble) (s : State), ∃ b : Byte,
    exec (.bcdDec t o) s = .next (s.setResponse (some (.ok (.value b)))) ∧ b.toNat = t.toNat * 10 + o.toNat)

/-- 40_bcd.md R103: the round trip over 0..99, and the rejection of every other value. -/
def Obligations.BcdRoundTrip : Prop :=
  (∀ (v : Nat) (s : State), v ≤ 99 →
    ∃ b : Byte, exec (.bcdEnc v) s = .next (s.setResponse (some (.ok (.byte b)))) ∧
      exec (.bcdDec (BitVec.ofNat 4 (bits b 7 4)) (BitVec.ofNat 4 (bits b 3 0))) s =
        .next (s.setResponse (some (.ok (.value (BitVec.ofNat 8 v)))))) ∧
  (∀ (v : Int) (s : State), v ≥ 100 ∨ v < 0 → ∃ e, responseOf (exec (.bcdEnc v) s) = some (.error e))

/-- 40_bcd.md R104: the image of BCD.ENC is the bytes whose nibbles are both digits, 100 of them, each from one value. -/
def Obligations.BcdEncImage : Prop :=
  (∀ (b : Byte) (s : State),
    (∃ v : Int, responseOf (exec (.bcdEnc v) s) = some (.ok (.byte b))) ↔ bits b 7 4 ≤ 9 ∧ bits b 3 0 ≤ 9) ∧
  ((List.range 256).countP fun n => bits (BitVec.ofNat 8 n) 7 4 ≤ 9 && bits (BitVec.ofNat 8 n) 3 0 ≤ 9) = 100 ∧
  (∀ (v w : Int) (b : Byte) (s : State), responseOf (exec (.bcdEnc v) s) = some (.ok (.byte b)) →
    responseOf (exec (.bcdEnc w) s) = some (.ok (.byte b)) → v = w)

/-- 40_bcd.md R105: the inverse law on valid bytes; on a byte with a nibble above 9, BCD.DEC answers and BCD.ENC of that
answer differs or is E_RANGE. -/
def Obligations.BcdInverseOnDigits : Prop :=
  ∀ (b : Byte) (s : State), ∃ d : Byte,
    exec (.bcdDec (BitVec.ofNat 4 (bits b 7 4)) (BitVec.ofNat 4 (bits b 3 0))) s =
      .next (s.setResponse (some (.ok (.value d)))) ∧
    (bits b 7 4 ≤ 9 ∧ bits b 3 0 ≤ 9 → exec (.bcdEnc d.toNat) s = .next (s.setResponse (some (.ok (.byte b))))) ∧
    (bits b 7 4 > 9 ∨ bits b 3 0 > 9 → responseOf (exec (.bcdEnc d.toNat) s) ≠ some (.ok (.byte b)))

/-- 40_bcd.md R106: a value below 10·2^w packs into a w-bit tens field: bits 7:(4+w) are zero. -/
def Obligations.NarrowTensFieldsFit : Prop :=
  ∀ (w v : Nat) (s : State), v ≤ 10 * 2 ^ w - 1 → v ≤ 99 →
    ∃ b : Byte, exec (.bcdEnc v) s = .next (s.setResponse (some (.ok (.byte b)))) ∧ v / 10 < 2 ^ w ∧
      ∀ i, 4 + w ≤ i → b.getLsbD i = false

/-! ## DateTime codec: decode -/

/-- 41_datetime.md R121, R122: the seconds and the minutes register. -/
def Obligations.SecondsAndMinutesDecode : Prop :=
  ∀ b : Byte,
    decSec b = (if bits b 3 0 > 9 then .error ⟨.E_DIGIT, 0⟩
      else if bits b 6 4 * 10 + bits b 3 0 > 59 then .error ⟨.E_FIELD, 0⟩ else .ok (bits b 6 4 * 10 + bits b 3 0)) ∧
    decMin b = (if bits b 3 0 > 9 then .error ⟨.E_DIGIT, 1⟩
      else if bits b 6 4 * 10 + bits b 3 0 > 59 then .error ⟨.E_FIELD, 1⟩ else .ok (bits b 6 4 * 10 + bits b 3 0))

/-- 41_datetime.md R123 to R127: the hours register, by mode bit and policy. -/
def Obligations.HoursDecode : Prop :=
  ∀ b : Byte,
    (bits b 6 6 = 0 → ∀ policy, decHour policy b =
      if bits b 3 0 > 9 then .error ⟨.E_DIGIT, 2⟩
      else if (if bits b 5 5 = 1 then 20 else 0) + bits b 4 4 * 10 + bits b 3 0 > 23 then .error ⟨.E_FIELD, 2⟩
      else .ok ((if bits b 5 5 = 1 then 20 else 0) + bits b 4 4 * 10 + bits b 3 0)) ∧
    (bits b 6 6 = 1 →
      decHour .RESOLVE b =
        (if bits b 3 0 > 9 then .error ⟨.E_DIGIT, 2⟩
         else if bits b 4 4 * 10 + bits b 3 0 < 1 ∨ bits b 4 4 * 10 + bits b 3 0 > 12 then .error ⟨.E_FIELD, 2⟩
         else .ok ((bits b 4 4 * 10 + bits b 3 0) % 12 + (if bits b 5 5 = 1 then 12 else 0))) ∧
      decHour .REJECT b = .error ⟨.E_MODE12, 2⟩ ∧
      decHour .SOURCE b =
        (if bits b 3 0 > 9 then .error ⟨.E_DIGIT, 2⟩ else .ok (bits b 4 4 * 10 + bits b 3 0)))

/-- 41_datetime.md R128 to R131: the weekday, date, month and year registers. -/
def Obligations.CalendarRegistersDecode : Prop :=
  ∀ b : Byte,
    decWday b = (if bits b 2 0 = 0 then .error ⟨.E_FIELD, 3⟩ else .ok (bits b 2 0)) ∧
    decDay b = (if bits b 3 0 > 9 then .error ⟨.E_DIGIT, 4⟩
      else if bits b 5 4 * 10 + bits b 3 0 < 1 ∨ bits b 5 4 * 10 + bits b 3 0 > 31 then .error ⟨.E_FIELD, 4⟩
      else .ok (bits b 5 4 * 10 + bits b 3 0)) ∧
    decMonth b = (if bits b 3 0 > 9 then .error ⟨.E_DIGIT, 5⟩
      else if bits b 4 4 * 10 + bits b 3 0 < 1 ∨ bits b 4 4 * 10 + bits b 3 0 > 12 then .error ⟨.E_FIELD, 5⟩
      else .ok (bits b 4 4 * 10 + bits b 3 0)) ∧
    ∀ epoch, decYear epoch b = (if bits b 7 4 > 9 ∨ bits b 3 0 > 9 then .error ⟨.E_DIGIT, 6⟩
      else .ok (epoch.val + (bits b 7 4 * 10 + bits b 3 0)))

/-- 41_datetime.md R120: DT.DEC of a block whose seven fields all decode gives the record of their values, the year in 16
bits; with a field that does not decode it gives the error of the first such field in register order; and the policy
matters only in 12-hour mode. The frame is `10 P0 … P6`. -/
def Obligations.DtDecDecodesInRegisterOrder : Prop :=
  ∀ (p : PackedDate) (s : State),
    (∀ rest, decode (0x10 :: (p.bytes ++ rest)) = .request (.dtDec p) rest) ∧
    (∀ sec min hour wday day month year, decSec p.seconds = .ok sec → decMin p.minutes = .ok min →
      decHour s.hour12Policy p.hours = .ok hour → decWday p.weekday = .ok wday → decDay p.date = .ok day →
      decMonth p.monthCentury = .ok month → decYear s.epochBase p.year = .ok year →
      ∃ t, exec (.dtDec p) s = .next (s.setResponse (some (.ok (.calendar t)))) ∧ t.second.toNat = sec ∧
        t.minute.toNat = min ∧ t.hour.toNat = hour ∧ t.weekday.toNat = wday ∧ t.day.toNat = day ∧
        t.month.toNat = month ∧ t.year.toNat = year) ∧
    (∀ e, [decSec p.seconds, decMin p.minutes, decHour s.hour12Policy p.hours, decWday p.weekday, decDay p.date,
        decMonth p.monthCentury, decYear s.epochBase p.year].findSome?
          (fun r => match r with | .error e => some e | .ok _ => none) = some e →
      exec (.dtDec p) s = .next (s.setResponse (some (.error e)))) ∧
    (∀ u : State, bits p.hours 6 6 = 0 → u.epochBase = s.epochBase →
      responseOf (exec (.dtDec p) u) = responseOf (exec (.dtDec p) s))

/-- 41_datetime.md R121 to R131 together: DT.DEC completes on every block of valid digits and ranges in 24-hour mode, under
every policy, with each field's value. -/
def Obligations.DtDecReads24HourBlock : Prop :=
  ∀ (p : PackedDate) (s : State),
    bits p.seconds 6 4 ≤ 5 → bits p.seconds 3 0 ≤ 9 → bits p.minutes 6 4 ≤ 5 → bits p.minutes 3 0 ≤ 9 →
    bits p.hours 6 6 = 0 → bits p.hours 3 0 ≤ 9 → bits p.hours 5 4 * 10 + bits p.hours 3 0 ≤ 23 →
    1 ≤ bits p.weekday 2 0 → bits p.date 3 0 ≤ 9 → 1 ≤ bits p.date 5 4 * 10 + bits p.date 3 0 →
    bits p.date 5 4 * 10 + bits p.date 3 0 ≤ 31 → bits p.monthCentury 3 0 ≤ 9 →
    1 ≤ bits p.monthCentury 4 4 * 10 + bits p.monthCentury 3 0 →
    bits p.monthCentury 4 4 * 10 + bits p.monthCentury 3 0 ≤ 12 → bits p.year 7 4 ≤ 9 → bits p.year 3 0 ≤ 9 →
    ∃ t, exec (.dtDec p) s = .next (s.setResponse (some (.ok (.calendar t)))) ∧
      t.second.toNat = bits p.seconds 6 4 * 10 + bits p.seconds 3 0 ∧
      t.minute.toNat = bits p.minutes 6 4 * 10 + bits p.minutes 3 0 ∧
      t.hour.toNat = bits p.hours 5 4 * 10 + bits p.hours 3 0 ∧ t.weekday.toNat = bits p.weekday 2 0 ∧
      t.day.toNat = bits p.date 5 4 * 10 + bits p.date 3 0 ∧
      t.month.toNat = bits p.monthCentury 4 4 * 10 + bits p.monthCentury 3 0 ∧
      t.year.toNat = s.epochBase.val + (bits p.year 7 4 * 10 + bits p.year 3 0)

/-- 41_datetime.md R125, 92_eei_decisions.md D9: under RESOLVE a 12-hour time is folded: 12 AM is 0, 12 PM is 12. The block's
other fields are those of the block with the hours register cleared. -/
def Obligations.DtDecResolves12Hour : Prop :=
  ∀ (p : PackedDate) (s : State) (t : CalendarTime), s.hour12Policy = .RESOLVE → bits p.hours 6 6 = 1 →
    bits p.hours 3 0 ≤ 9 → 1 ≤ bits p.hours 4 4 * 10 + bits p.hours 3 0 →
    bits p.hours 4 4 * 10 + bits p.hours 3 0 ≤ 12 →
    exec (.dtDec { p with hours := 0 }) s = .next (s.setResponse (some (.ok (.calendar t)))) →
    ∃ h : Byte, exec (.dtDec p) s = .next (s.setResponse (some (.ok (.calendar { t with hour := h })))) ∧
      h.toNat = (bits p.hours 4 4 * 10 + bits p.hours 3 0) % 12 + 12 * bits p.hours 5 5

/-- 41_datetime.md R133: every CalendarTime that DT.DEC returns is in range, under every policy; in 12-hour mode under SOURCE
the hour is at most 19 (R127; the model reads R133's "hour ≤ 19" so: notes/assumptions/17). -/
def Obligations.DecodedCalendarInRange : Prop :=
  ∀ (p : PackedDate) (s : State) (t : CalendarTime),
    responseOf (exec (.dtDec p) s) = some (.ok (.calendar t)) →
    t.second.toNat ≤ 59 ∧ t.minute.toNat ≤ 59 ∧ t.hour.toNat ≤ 23 ∧ 1 ≤ t.weekday.toNat ∧ t.weekday.toNat ≤ 7 ∧
    1 ≤ t.day.toNat ∧ t.day.toNat ≤ 31 ∧ 1 ≤ t.month.toNat ∧ t.month.toNat ≤ 12 ∧
    s.epochBase.val ≤ t.year.toNat ∧ t.year.toNat ≤ s.epochBase.val + 99 ∧
    (s.hour12Policy = .SOURCE → bits p.hours 6 6 = 1 → t.hour.toNat ≤ 19)

/-- 41_datetime.md R132: DT.DEC answers the same, result or error, on blocks that differ only in unused bits. -/
def Obligations.UnusedBitsIgnored : Prop :=
  ∀ (p q : PackedDate) (s : State), agreeOnUsedBits p q → exec (.dtDec p) s = exec (.dtDec q) s

/-! ## DateTime codec: encode, laws -/

/-- 41_datetime.md R134 to R140: DT.ENC of a record in range gives its seven register bytes, in 24-hour mode; of any other
record, E_RANGE with the register offset of the first field out of range. -/
def Obligations.DtEncEncodesOrRefuses : Prop :=
  (∀ (s mi h w d mo yh yl : Byte) (rest : List Byte),
    decode (0x11 :: s :: mi :: h :: w :: d :: mo :: yh :: yl :: rest) =
      .request (.dtEnc ⟨s, mi, h, w, d, mo, halfOf yh yl⟩) rest) ∧
  (∀ (t : CalendarTime) (s : State),
    let ok := [decide (t.second.toNat ≤ 59), decide (t.minute.toNat ≤ 59), decide (t.hour.toNat ≤ 23),
      decide (1 ≤ t.weekday.toNat ∧ t.weekday.toNat ≤ 7), decide (1 ≤ t.day.toNat ∧ t.day.toNat ≤ 31),
      decide (1 ≤ t.month.toNat ∧ t.month.toNat ≤ 12),
      decide (s.epochBase.val ≤ t.year.toNat ∧ t.year.toNat ≤ s.epochBase.val + 99)]
    (ok.all id = true → ∃ p : PackedDate, exec (.dtEnc t) s = .next (s.setResponse (some (.ok (.registers p)))) ∧
      p.seconds.toNat = 16 * (t.second.toNat / 10) + t.second.toNat % 10 ∧
      p.minutes.toNat = 16 * (t.minute.toNat / 10) + t.minute.toNat % 10 ∧
      p.hours.toNat = (if 20 ≤ t.hour.toNat then 0x20 + (t.hour.toNat - 20)
        else 16 * (t.hour.toNat / 10) + t.hour.toNat % 10) ∧
      exec (.bcdEnc t.hour.toNat) s = .next (s.setResponse (some (.ok (.byte p.hours)))) ∧
      p.weekday = t.weekday ∧ p.date.toNat = 16 * (t.day.toNat / 10) + t.day.toNat % 10 ∧
      p.monthCentury.toNat = 16 * (t.month.toNat / 10) + t.month.toNat % 10 ∧
      p.year.toNat = 16 * ((t.year.toNat - s.epochBase.val) / 10) + (t.year.toNat - s.epochBase.val) % 10) ∧
    (∀ i, ok.findIdx? (fun b => !b) = some i →
      exec (.dtEnc t) s = .next (s.setResponse (some (.error ⟨.E_RANGE, BitVec.ofNat 8 i⟩)))))

/-- 41_datetime.md R141: DT.ENC writes 0 to every bit outside the fields it sets, the mode bit and the century bit among
them. -/
def Obligations.DtEncClearsUnusedBits : Prop :=
  ∀ (t : CalendarTime) (s : State) (p : PackedDate),
    responseOf (exec (.dtEnc t) s) = some (.ok (.registers p)) →
    bits p.seconds 7 7 = 0 ∧ bits p.minutes 7 7 = 0 ∧ bits p.hours 7 7 = 0 ∧ bits p.hours 6 6 = 0 ∧
    bits p.weekday 7 3 = 0 ∧ bits p.date 7 6 = 0 ∧ bits p.monthCentury 7 7 = 0 ∧ bits p.monthCentury 6 5 = 0

/-- 41_datetime.md R142: the round-trip law, for every record DT.ENC accepts, every epoch base and every policy. -/
def Obligations.DateRoundTrip : Prop :=
  ∀ (t : CalendarTime) (s u : State) (p : PackedDate),
    responseOf (exec (.dtEnc t) s) = some (.ok (.registers p)) → u.epochBase = s.epochBase →
    exec (.dtDec p) u = .next (u.setResponse (some (.ok (.calendar t))))

/-- 41_datetime.md R143: the bit-20 regression law. -/
def Obligations.Bit20Regression : Prop :=
  ∀ (t : CalendarTime) (s : State), calendarInRange s.epochBase t = true → 20 ≤ t.hour.toNat →
    ∃ p : PackedDate, exec (.dtEnc t) s = .next (s.setResponse (some (.ok (.registers p)))) ∧
      p.hours.toNat = 0x20 + (t.hour.toNat - 20) ∧ decHour24 p.hours = .ok t.hour.toNat

/-- 41_datetime.md R144: encode after decode. In 24-hour mode the block comes back with the unused bits cleared; in 12-hour
mode under RESOLVE with the 24-hour form of the hour; and no 12-hour block comes back unchanged. -/
def Obligations.EncodeAfterDecode : Prop :=
  ∀ (p : PackedDate) (s : State) (t : CalendarTime),
    responseOf (exec (.dtDec p) s) = some (.ok (.calendar t)) →
    ∃ q : PackedDate, exec (.dtEnc t) s = .next (s.setResponse (some (.ok (.registers q)))) ∧
      (bits p.hours 6 6 = 0 → q = clearUnusedBits p) ∧
      (bits p.hours 6 6 = 1 → s.hour12Policy = .RESOLVE → decHour24 q.hours = decHour12Resolve p.hours) ∧
      (bits p.hours 6 6 = 1 → q ≠ p)

/-- 41_datetime.md R146: no cross-field validation. DT.DEC and DT.ENC answer OK exactly where each field on its own is in
order, so 31 February is accepted both ways. -/
def Obligations.NoCrossFieldValidation : Prop :=
  (∀ (t : CalendarTime) (s : State), (∃ p, responseOf (exec (.dtEnc t) s) = some (.ok (.registers p))) ↔
    t.second.toNat ≤ 59 ∧ t.minute.toNat ≤ 59 ∧ t.hour.toNat ≤ 23 ∧ (1 ≤ t.weekday.toNat ∧ t.weekday.toNat ≤ 7) ∧
    (1 ≤ t.day.toNat ∧ t.day.toNat ≤ 31) ∧ (1 ≤ t.month.toNat ∧ t.month.toNat ≤ 12) ∧
    s.epochBase.val ≤ t.year.toNat ∧ t.year.toNat ≤ s.epochBase.val + 99) ∧
  (∀ (p : PackedDate) (s : State), (∃ t, responseOf (exec (.dtDec p) s) = some (.ok (.calendar t))) ↔
    (decSec p.seconds).isOk ∧ (decMin p.minutes).isOk ∧ (decHour s.hour12Policy p.hours).isOk ∧
    (decWday p.weekday).isOk ∧ (decDay p.date).isOk ∧ (decMonth p.monthCentury).isOk ∧
    (decYear s.epochBase p.year).isOk)

/-! ## Register field packer -/

/-- 42_field.md R162: the legal masks are the 36 runs of w bits from bit l; every mask of the field table is legal. -/
def Obligations.LegalMasks : Prop :=
  (∀ m : Byte, contiguous m = true ↔ ∃ w l, 1 ≤ w ∧ w ≤ 8 ∧ l ≤ 8 - w ∧ m = runMask w l) ∧
  ((List.range 256).countP fun n => contiguous (BitVec.ofNat 8 n)) = 36 ∧
  (∀ f : ChipField, contiguous f.mask = true)

/-- 42_field.md R160: FLD.GET, its frame, its result on every legal mask, its error on every other. -/
def Obligations.FldGetReadsField : Prop :=
  (∀ (b m : Byte) (rest : List Byte), decode (0x20 :: b :: m :: rest) = .request (.fldGet b m) rest) ∧
  (∀ (b : Byte) (w l : Nat) (s : State), 1 ≤ w → l + w ≤ 8 → ∃ v : Byte,
    exec (.fldGet b (runMask w l)) s = .next (s.setResponse (some (.ok (.value v)))) ∧ v.toNat = bits b (l + w - 1) l) ∧
  (∀ (b m : Byte) (s : State), (∀ w l, 1 ≤ w → l + w ≤ 8 → m ≠ runMask w l) →
    exec (.fldGet b m) s = .next (s.setResponse (some (.error ⟨.E_MASK, 0xFF⟩))))

/-- 42_field.md R161: FLD.SET, its frame, its result where V8 fits, E_RANGE where it does not, and E_MASK on every mask
that is not legal, whatever V8 is. -/
def Obligations.FldSetWritesField : Prop :=
  (∀ (b m v : Byte) (rest : List Byte), decode (0x21 :: b :: m :: v :: rest) = .request (.fldSet b m v) rest) ∧
  (∀ (b v : Byte) (w l : Nat) (s : State), 1 ≤ w → l + w ≤ 8 → v.toNat < 2 ^ w → ∃ r : Byte,
    exec (.fldSet b (runMask w l) v) s = .next (s.setResponse (some (.ok (.byte r)))) ∧
      ∀ i < 8, r.getLsbD i = if l ≤ i ∧ i < l + w then v.getLsbD (i - l) else b.getLsbD i) ∧
  (∀ (b v : Byte) (w l : Nat) (s : State), 1 ≤ w → l + w ≤ 8 → 2 ^ w ≤ v.toNat →
    exec (.fldSet b (runMask w l) v) s = .next (s.setResponse (some (.error ⟨.E_RANGE, 0xFF⟩)))) ∧
  (∀ (b m v : Byte) (s : State), (∀ w l, 1 ≤ w → l + w ≤ 8 → m ≠ runMask w l) →
    exec (.fldSet b m v) s = .next (s.setResponse (some (.error ⟨.E_MASK, 0xFF⟩))))

/-- 42_field.md R163: the isolation law. -/
def Obligations.FieldIsolation : Prop :=
  ∀ (b m v : Byte) (s : State), contiguous m = true → v.toNat < 2 ^ popcount m →
    ∃ r : Byte, exec (.fldSet b m v) s = .next (s.setResponse (some (.ok (.byte r)))) ∧
      r &&& ~~~m = b &&& ~~~m ∧ exec (.fldGet r m) s = .next (s.setResponse (some (.ok (.value v)))) ∧
      ∀ m' : Byte, contiguous m' = true → m &&& m' = 0 → exec (.fldGet r m') s = exec (.fldGet b m') s

/-- 42_field.md R164 (a) to (d). -/
def Obligations.FieldLaws : Prop :=
  (∀ (b m : Byte) (s : State), contiguous m = true → ∃ g : Byte,
    exec (.fldGet b m) s = .next (s.setResponse (some (.ok (.value g)))) ∧
    exec (.fldSet b m g) s = .next (s.setResponse (some (.ok (.byte b)))) ∧ b = (b &&& ~~~m) ||| (g <<< ctz m)) ∧
  (∀ (b m v w : Byte) (s : State), contiguous m = true → v.toNat < 2 ^ popcount m → w.toNat < 2 ^ popcount m →
    ∃ r : Byte, exec (.fldSet b m v) s = .next (s.setResponse (some (.ok (.byte r)))) ∧
      exec (.fldSet r m w) s = exec (.fldSet b m w) s) ∧
  (∀ (b m n v w : Byte) (s : State), contiguous m = true → contiguous n = true → m &&& n = 0 →
    v.toNat < 2 ^ popcount m → w.toNat < 2 ^ popcount n → ∃ q r : Byte,
      exec (.fldSet b m v) s = .next (s.setResponse (some (.ok (.byte q)))) ∧
      exec (.fldSet b n w) s = .next (s.setResponse (some (.ok (.byte r)))) ∧
      exec (.fldSet q n w) s = exec (.fldSet r m v) s) ∧
  (∀ (a b m : Byte) (s : State), contiguous m = true → contiguous (~~~m) = true →
    exec (.fldGet a m) s = exec (.fldGet b m) s → exec (.fldGet a (~~~m)) s = exec (.fldGet b (~~~m)) s → a = b)

/-- 42_field.md R166: no access right is enforced. Every named field, read-only and reserved ones too, is packed with every
value of its width, and unpacked again. -/
def Obligations.AccessRightsNotEnforced : Prop :=
  ∀ (f : ChipField) (b v : Byte) (s : State), v.toNat < 2 ^ (f.row.hi - f.row.lo + 1) →
    ∃ r : Byte, exec (.fldSet b f.mask v) s = .next (s.setResponse (some (.ok (.byte r)))) ∧
      exec (.fldGet r f.mask) s = .next (s.setResponse (some (.ok (.value v))))

/-- 42_field.md R163, R165: changing one flag of the control or of the status register leaves every other flag of it as it
was, so clearing alarm1Triggered leaves alarm2Triggered, busy, oscillatorStopped and output32kHzEnabled. -/
def Obligations.ChangingAFlagKeepsTheOthers : Prop :=
  (∀ (f g : StatusFlag) (b v : Byte) (s : State), f ≠ g → v.toNat < 2 ^ popcount f.field.mask → ∃ r : Byte,
    exec (.fldSet b f.field.mask v) s = .next (s.setResponse (some (.ok (.byte r)))) ∧
    exec (.fldGet r f.field.mask) s = .next (s.setResponse (some (.ok (.value v)))) ∧
    exec (.fldGet r g.field.mask) s = exec (.fldGet b g.field.mask) s) ∧
  (∀ (f g : ControlFlag) (b v : Byte) (s : State), f ≠ g → v.toNat < 2 ^ popcount f.field.mask → ∃ r : Byte,
    exec (.fldSet b f.field.mask v) s = .next (s.setResponse (some (.ok (.byte r)))) ∧
    exec (.fldGet r f.field.mask) s = .next (s.setResponse (some (.ok (.value v)))) ∧
    exec (.fldGet r g.field.mask) s = exec (.fldGet b g.field.mask) s)

/-- 20_memory.md R43: each field's mask is the run of its bits hi..lo; the fields of one register do not overlap but for RS
and its halves RS2 and RS1; and the fields of each register cover its eight bits. -/
def Obligations.FieldTableIsAPartition : Prop :=
  (∀ f : ChipField, f.row.lo ≤ f.row.hi ∧ f.row.hi ≤ 7 ∧ f.mask = runMask (f.row.hi - f.row.lo + 1) f.row.lo) ∧
  (∀ f g : ChipField, f ≠ g → f.row.reg = g.row.reg → ¬(f = .RS ∧ (g = .RS2 ∨ g = .RS1)) →
    ¬(g = .RS ∧ (f = .RS2 ∨ f = .RS1)) → f.mask &&& g.mask = 0) ∧
  (∀ r : ChipReg, (ChipField.all.filter fun f => f.row.reg == r).foldl (fun m f => m ||| f.mask) 0 = (0xFF : Byte))

/-! ## Responses, errors, and what no operation touches -/

/-- 20_memory.md R50, R40; 10_state.md R20: each of the six operations gives a response and leaves everything else of the
machine as it was: the instance parameters, the bytes still at the request port, every chip register, the host. -/
def Obligations.OperationsOnlyRespond : Prop :=
  ∀ (i : Instr) (s : State), ∃ t r, exec i s = .next t ∧ t.response = some r ∧
    t.epochBase = s.epochBase ∧ t.hour12Policy = s.hour12Policy ∧ t.request = s.request ∧
    (∀ a, chipByte t.chip a = chipByte s.chip a) ∧ t.bus = s.bus ∧ t.accesses = s.accesses ∧ t.lastRead = s.lastRead ∧
    t.program = s.program ∧ t.line = s.line ∧ t.names = s.names ∧ t.phase = s.phase

/-- 10_state.md R20, R31: the response is a function of the request and the instance parameters; the four operations
outside the DateTime codec do not depend on the parameters either. -/
def Obligations.ResponseDependsOnRequestOnly : Prop :=
  (∀ (i : Instr) (s u : State), s.epochBase = u.epochBase → s.hour12Policy = u.hour12Policy →
    responseOf (exec i s) = responseOf (exec i u)) ∧
  (∀ (s u : State), (∀ v, responseOf (exec (.bcdEnc v) s) = responseOf (exec (.bcdEnc v) u)) ∧
    (∀ t o, responseOf (exec (.bcdDec t o) s) = responseOf (exec (.bcdDec t o) u)) ∧
    (∀ b m, responseOf (exec (.fldGet b m) s) = responseOf (exec (.fldGet b m) u)) ∧
    (∀ b m v, responseOf (exec (.fldSet b m v) s) = responseOf (exec (.fldSet b m v) u)))

/-- 30_encoding.md R67, 60_exceptions.md R201: the STATUS codes; the response frame of each operation; and the frame `06 OP`
of an illegal OP (R66). -/
def Obligations.ResponseFrames : Prop :=
  ([ErrorCode.E_RANGE, .E_DIGIT, .E_FIELD, .E_MODE12, .E_MASK, .E_OP].map ErrorCode.status =
    [0x01, 0x02, 0x03, 0x04, 0x05, 0x06]) ∧
  (∀ (op : Byte) (rest : List Byte) (s : State), op ∉ [0x01, 0x02, 0x10, 0x11, 0x20, 0x21] → s.request = op :: rest →
    (responseOf (step s)).map Response.frame = some [0x06, op]) ∧
  ∀ (i : Instr) (s : State) (r : Response), responseOf (exec i s) = some r →
    (∃ e, r = .error e ∧ r.frame = [e.code.status, e.info] ∧ e.code.status ≠ 0x00) ∨
    (match i with
      | .bcdEnc _ => ∃ b, r = .ok (.byte b) ∧ r.frame = [0x00, b]
      | .bcdDec _ _ => ∃ v, r = .ok (.value v) ∧ r.frame = [0x00, v]
      | .dtDec _ => ∃ t, r = .ok (.calendar t) ∧
          r.frame = [0x00, t.second, t.minute, t.hour, t.weekday, t.day, t.month, highByte t.year, lowByte t.year]
      | .dtEnc _ => ∃ p, r = .ok (.registers p) ∧
          r.frame = [0x00, p.seconds, p.minutes, p.hours, p.weekday, p.date, p.monthCentury, p.year]
      | .fldGet _ _ => ∃ v, r = .ok (.value v) ∧ r.frame = [0x00, v]
      | .fldSet _ _ _ => ∃ b, r = .ok (.byte b) ∧ r.frame = [0x00, b])

/-- 60_exceptions.md R203, with the names of R201 and the INFO bytes of R202 (the weekday has no digit and the year no range
to fail): the errors each operation can raise, and no others. -/
def Obligations.ErrorsOfEachOperation : Prop :=
  ∀ (i : Instr) (s : State) (e : CodecError), responseOf (exec i s) = some (.error e) →
    match i with
      | .bcdEnc v => (v < 0 ∨ 99 < v) ∧ e = ⟨.E_RANGE, 0xFF⟩
      | .bcdDec _ _ => False
      | .dtDec _ => e.code = .E_DIGIT ∧ e.info.toNat ≤ 6 ∧ e.info ≠ 3 ∨ e.code = .E_FIELD ∧ e.info.toNat ≤ 5 ∨
          e = ⟨.E_MODE12, 2⟩
      | .dtEnc _ => e.code = .E_RANGE ∧ e.info.toNat ≤ 6
      | .fldGet _ m => contiguous m = false ∧ e = ⟨.E_MASK, 0xFF⟩
      | .fldSet _ m v => contiguous m = false ∧ e = ⟨.E_MASK, 0xFF⟩ ∨
          contiguous m = true ∧ 2 ^ popcount m - 1 < v.toNat ∧ e = ⟨.E_RANGE, 0xFF⟩

/-- 10_state.md R25, 93_implementation_defined.md U3: a host line that reads a result field of an error response faults: as
an operand of a request or of a write, whole or by a part, after any operands that have values, or in any comparison. That
it is the host line that faults is the model's reading (notes/assumptions/15). -/
def Obligations.AbsentResultFaults : Prop :=
  ∀ (s : State) (x : String) (e : CodecError), s.names.lookup x = some (.response (.error e)) →
    (∀ (before after : List Operand) (vs : List Int) (o : Operand),
      operandValues s.names before = .next vs → o = .name x ∨ (∃ c, o = .part x c) →
      (∀ y m, s.atLine (.request y m (before ++ o :: after)) → step s = .fault .absentResult) ∧
      (∀ a, s.atLine (.wr a (before ++ o :: after)) → step s = .fault .absentResult)) ∧
    (∀ (n : Int) (c : Cond), c = .eq x n ∨ c = .ne x n ∨ c = .lt x n →
      (∀ l, s.atLine (.ifGoto c l) → step s = .fault .absentResult) ∧
      (s.atLine (.ifStop c) → step s = .fault .absentResult))

/-! ## Whole-machine rules -/

/-- 70_reset_and_hazards.md R231: the instance parameters "are bound when the block is instantiated and never change
afterwards", and HOUR12_POLICY defaults to RESOLVE. -/
def Obligations.ParametersNeverChange : Prop :=
  (∀ s t : State, step s = .next t → t.epochBase = s.epochBase ∧ t.hour12Policy = s.hour12Policy) ∧
  State.reset.hour12Policy = .RESOLVE

/-- 70_reset_and_hazards.md R230 to R232: after reset nothing is in flight, the policy is RESOLVE, EPOCH_BASE and every chip
register are the free values of Config, and the block performs whatever request is presented. The names are the model's
(notes/assumptions/1, 2, 18). -/
def Obligations.ResetState : Prop :=
  State.reset.request = [] ∧ State.reset.response = none ∧ State.reset.hour12Policy = .RESOLVE ∧
  State.reset.epochBase = Config.epochBase ∧
  (∀ a < 19, chipByte State.reset.chip a = some (Config.chipPowerUp a)) ∧
  (∀ i : Instr, i.WellFormed → step (State.reset.setRequest (encode i)) = exec i State.reset)

/-- Every step keeps a legal machine legal: every CalendarTime it holds is in range (10_state.md R26, 41_datetime.md R133),
every block of register bytes from DT.ENC has the unused bits clear (R141), every error is one of the table
(60_exceptions.md R202, R203), and the host's names stay in canonical form. -/
def Obligations.StepKeepsLegal : Prop :=
  ∀ s t : State, s.legal = true → step s = .next t → t.legal = true

/-- The machine is legal after reset. -/
def Obligations.ResetIsLegal : Prop := State.reset.legal = true

/-- 20_memory.md R52: the host and the block take turns, one request at a time, and every step keeps it so: a host program
never leaves a truncated frame, and never waits for a response that no request will bring. The ports and the phases are
the model's (notes/assumptions/8, 9). -/
def Obligations.StepKeepsTurns : Prop :=
  ∀ s t : State, s.inTurn → step s = .next t → t.inTurn

/-- 70_reset_and_hazards.md R244(2): a launched program starts in turn, whatever program it is. That the host
is then running is the model's form of the start (notes/assumptions/27). -/
def Obligations.LaunchIsInTurn : Prop :=
  ∀ (s : State) (program : List HostLine), (s.launch program).inTurn

/-- 20_memory.md R50, R40: where the chip changes nothing by itself and the bus works (a quiet access), a step changes the chip register
image only by a WR line of the host. What the chip does by itself is the model's access record
(notes/assumptions/5); that the image stays as it is at a step without an access is notes/assumptions/26. -/
def Obligations.OnlyWritesChangeTheChip : Prop :=
  ∀ s t : State, s.access = .quiet → step s = .next t → t.chip ≠ s.chip →
    ∃ addr vs, s.atLine (.wr addr vs)

/-! ## The host and its transport -/

/-- 10_state.md R24, 20_memory.md R52: a request line, with or without a name, presents the one complete frame of its request
and waits; the block answers in the next step; the host binds the response where the line has a name, and goes on. Three
steps is the model's count (notes/assumptions/9); that the chip register image stays as it is while no transport access
happens is the model's choice (R245 leaves it open, notes/assumptions/26). -/
def Obligations.RequestLineRoundTrip : Prop :=
  ∀ (s : State) (x : Option String) (m : Mnemonic) (ops : List Operand) (vs : List Int) (i : Instr) (r : Response),
    s.atLine (.request x m ops) → operandValues s.names ops = .next vs → assemble m vs = .next i →
    responseOf (exec i s) = some r →
    ∃ t, core.run 3 s = .next t ∧ (∀ y, x = some y → t.names.lookup y = some (.response r)) ∧
      (∀ y, x ≠ some y → t.names.lookup y = s.names.lookup y) ∧ t.line = s.line + 1 ∧ t.phase = .running ∧
      t.request = [] ∧ t.chip = s.chip ∧ t.bus = s.bus ∧ t.accesses = s.accesses ∧ t.lastRead = s.lastRead ∧
      t.program = s.program ∧ t.epochBase = s.epochBase ∧ t.hour12Policy = s.hour12Policy

/-- 30_encoding.md R70: what an operand stands for, and when a condition holds. A literal is its value, a mask name the
field's mask, a bound name its one-field result, its host integer, the bytes of its read or the seven bytes of its DT.ENC
result, `name.second` and so on a field of its DT.DEC record, `name[k]` byte k of its read; a line's values stand in
order (in which lists several bytes may stand is the model's choice, notes/assumptions/23). -/
def Obligations.OperandsAndConditionsRead : Prop :=
  ∀ ns : Names,
    (∀ v, operandValues ns [.lit v] = .next [v]) ∧
    (∀ f, operandValues ns [.mask f] = .next [(f.mask.toNat : Int)]) ∧
    (∀ x b, ns.lookup x = some (.response (.ok (.byte b))) ∨ ns.lookup x = some (.response (.ok (.value b))) →
      operandValues ns [.name x] = .next [(b.toNat : Int)] ∧
      ∀ n : Int, (Cond.eq x n).holds ns = .next (decide ((b.toNat : Int) = n)) ∧
        (Cond.ne x n).holds ns = .next (decide ((b.toNat : Int) ≠ n)) ∧
        (Cond.lt x n).holds ns = .next (decide ((b.toNat : Int) < n))) ∧
    (∀ x k, ns.lookup x = some (.int k) →
      operandValues ns [.name x] = .next [k] ∧
      ∀ n : Int, (Cond.eq x n).holds ns = .next (decide (k = n)) ∧ (Cond.ne x n).holds ns = .next (decide (k ≠ n)) ∧
        (Cond.lt x n).holds ns = .next (decide (k < n))) ∧
    (∀ x p, ns.lookup x = some (.response (.ok (.registers p))) →
      operandValues ns [.name x] = .next ([p.seconds, p.minutes, p.hours, p.weekday, p.date, p.monthCentury, p.year].map
        fun b => (b.toNat : Int))) ∧
    (∀ x bs, ns.lookup x = some (.bytes bs) → operandValues ns [.name x] = .next (bs.map fun b => (b.toNat : Int)) ∧
      ∀ k b, bs[k]? = some b → operandValues ns [.byteOf x k] = .next [(b.toNat : Int)]) ∧
    (∀ x t, ns.lookup x = some (.response (.ok (.calendar t))) →
      operandValues ns [.part x .second, .part x .minute, .part x .hour, .part x .weekday, .part x .day, .part x .month,
        .part x .year] = .next [(t.second.toNat : Int), t.minute.toNat, t.hour.toNat, t.weekday.toNat, t.day.toNat,
        t.month.toNat, t.year.toNat]) ∧
    (∀ x r, ns.lookup x = some (.response r) → (Cond.statusOk x).holds ns = .next (decide (r.status = 0x00)) ∧
      (Cond.statusNotOk x).holds ns = .next (decide (r.status ≠ 0x00))) ∧
    (∀ os us vs ws, operandValues ns os = .next vs → operandValues ns us = .next ws →
      operandValues ns (os ++ us) = .next (vs ++ ws))

/-- 20_memory.md R44: on a bus that acknowledges, `x = RD addr, n` brings the n registers from addr on, byte k from
address + k, and changes no other name; the chip holds what the chip itself makes of it. All n bytes are of one chip image:
that one transfer is one instant is ASSUMED (70_reset_and_hazards.md R235, 92_eei_decisions.md D25, U14;
notes/assumptions/13), and the access record is the model's (notes/assumptions/5). -/
def Obligations.ReadBringsRegisters : Prop :=
  ∀ (s : State) (x : String) (addr : Byte) (n : Nat),
    s.atLine (.rd x addr n) → addr.toNat + n ≤ 0x13 → s.access.bus = .acknowledged →
    ∃ t bs, step s = .next t ∧ t.names.lookup x = some (.bytes bs) ∧ bs.length = n ∧
      (∀ k < n, bs[k]? = chipByte s.chipNow (addr.toNat + k)) ∧
      (∀ y, y ≠ x → t.names.lookup y = s.names.lookup y) ∧
      t.chip = chipChange s.chipNow s.access.chipAfter ∧ t.bus = s.bus.tail ∧ t.accesses = s.accesses + 1 ∧
      (∀ k < n, t.lastRead[addr.toNat + k]? = (bs[k]?).map some) ∧
      (∀ a, a < addr.toNat ∨ addr.toNat + n ≤ a → t.lastRead[a]? = s.lastRead[a]?) ∧
      t.line = s.line + 1 ∧ t.phase = s.phase ∧ t.request = [] ∧ t.response = s.response ∧
      t.program = s.program ∧ t.epochBase = s.epochBase ∧ t.hour12Policy = s.hour12Policy

/-- 20_memory.md R51, 93_implementation_defined.md U1: on a failed bus a read goes on with bytes that can be any (the
model's access record, notes/assumptions/5). -/
def Obligations.FailedReadBringsAnyBytes : Prop :=
  ∀ (s : State) (x : String) (addr : Byte) (bs : List Byte) (reached : Nat),
    s.atLine (.rd x addr bs.length) → addr.toNat + bs.length ≤ 0x13 →
    ∃ t, step (s.setBus [⟨[], .failed bs reached, []⟩]) = .next t ∧ t.names.lookup x = some (.bytes bs) ∧
      t.chip = s.chip

/-- 20_memory.md R44, R48, R50, R51: a WR of operands whose values are bytes that keep the protected bits
(70_reset_and_hazards.md R237), and `WR 0x00, e` of a DT.ENC result (41_datetime.md R141), after which the host has no
current read of those registers, answers next whatever the bus does. Every byte arrives, or on a failed bus the first ones
(notes/assumptions/22), and then the chip makes of it what the access record says. On a quiet access byte k is stored whole
at address + k and every other register is left alone, but for what R50 says of the status register: BSY is not written,
and setting CONV starts the conversion that BSY reflects. Everything else of the machine is as before
(notes/assumptions/5, 11, 12, 25). -/
def Obligations.WriteStoresRegisters : Prop :=
  ∀ (s : State) (addr : Byte) (bs : List Byte) (vs : List Operand) (p : PackedDate) (x : String) (dateBlock : Bool),
    s.atLine (.wr addr vs) → addr.toNat + bs.length ≤ 0x13 →
    (dateBlock = false → operandValues s.names vs = .next (bs.map fun b => (b.toNat : Int)) ∧
      dateBlockOf s.names addr vs = none ∧ allKeepProtected s.lastRead addr.toNat bs = true) →
    (dateBlock = true → addr = 0x00 ∧ vs = [.name x] ∧ s.names.lookup x = some (.response (.ok (.registers p))) ∧
      bs = p.bytes) →
    ∃ t, step s = .next t ∧
      (s.access.bus = .acknowledged →
        t.chip = chipChange (chipWrite s.chipNow addr.toNat bs) s.access.chipAfter) ∧
      (∀ data reached, s.access.bus = .failed data reached →
        t.chip = chipChange (chipWrite s.chipNow addr.toNat (bs.take reached)) s.access.chipAfter) ∧
      (s.access = .quiet → ∃ old new,
        (∀ a, a ≠ 0x0F → chipByte t.chip a = (carriedTo addr.toNat bs a).or (chipByte s.chip a)) ∧
        chipByte s.chip 0x0F = some old ∧ chipByte t.chip 0x0F = some new ∧
        new &&& 0xFB = ((carriedTo addr.toNat bs 0x0F).getD old) &&& 0xFB ∧
        (new.getLsbD 2 = true ↔
          old.getLsbD 2 = true ∨ ∃ c, carriedTo addr.toNat bs 0x0E = some c ∧ c.getLsbD 5 = true)) ∧
      (∀ a, t.lastRead[a]? = if dateBlock = true ∧ a < 7 then some none else s.lastRead[a]?) ∧
      t.line = s.line + 1 ∧ t.names = s.names ∧ t.phase = s.phase ∧ t.request = [] ∧ t.response = s.response ∧
      t.bus = s.bus.tail ∧ t.accesses = s.accesses + 1 ∧ t.program = s.program ∧ t.epochBase = s.epochBase ∧
      t.hour12Policy = s.hour12Policy

/-- 70_reset_and_hazards.md R243, 93_implementation_defined.md U6: a transfer that runs past 0x12 is refused, a read, and a
write of any operands whose values are bytes. -/
def Obligations.TransferBeyondMapRefused : Prop :=
  (∀ (s : State) (x : String) (addr : Byte) (n : Nat),
    s.atLine (.rd x addr n) → 0x12 < addr.toNat + n - 1 → step s = .refused .chipAddress) ∧
  (∀ (s : State) (addr : Byte) (vs : List Operand) (bs : List Byte),
    s.atLine (.wr addr vs) → operandValues s.names vs = .next (bs.map fun b => (b.toNat : Int)) →
    0x12 < addr.toNat + bs.length - 1 → step s = .refused .chipAddress)

/-- 70_reset_and_hazards.md R237, 93_implementation_defined.md U7: a WR of any operands of which one byte does not carry back
a protected field (BSY, OSF or an unused one) of its register, as the host's latest read brought it, is refused, but for
the DT.ENC block of 41_datetime.md R141. A WR of the status register that does carry them back is performed: on a quiet
access the register holds the written byte, BSY as the chip has it, so A1F and A2F are acknowledged by writing 0 to them
(20_memory.md R49, R50). Comparing with the latest read is the model's way to tell the duty (notes/assumptions/11); that
bits written as 1 are held rests on the quiet access and on storing as written, which 70_reset_and_hazards.md R245 leaves
open (notes/assumptions/5, 12, 25). -/
def Obligations.StatusWriteKeepsProtectedBits : Prop :=
  (∀ (s : State) (addr : Byte) (vs : List Operand) (bs : List Byte) (f : ChipField) (k : Nat) (new : Byte),
    s.atLine (.wr addr vs) → operandValues s.names vs = .next (bs.map fun b => (b.toNat : Int)) →
    dateBlockOf s.names addr vs = none → addr.toNat + bs.length ≤ 0x13 →
    f.isProtected = true → bs[k]? = some new → f.row.reg.address = addr.toNat + k →
    (∀ old, s.lastRead[addr.toNat + k]? = some (some old) → old &&& f.mask ≠ new &&& f.mask) →
    step s = .refused .protectedBits) ∧
  (∀ (s : State) (vs : List Operand) (old new : Byte), s.atLine (.wr 0x0F vs) →
    operandValues s.names vs = .next [(new.toNat : Int)] → s.lastRead[0x0F]? = some (some old) →
    (old &&& 0xF4 ≠ new &&& 0xF4 → step s = .refused .protectedBits) ∧
    (old &&& 0xF4 = new &&& 0xF4 → s.access = .quiet → ∃ t was now, step s = .next t ∧ chipByte s.chip 0x0F = some was ∧
      chipByte t.chip 0x0F = some now ∧ now &&& 0xFB = new &&& 0xFB ∧ now &&& 0x04 = was &&& 0x04))

/-- 30_encoding.md R70, 70_reset_and_hazards.md R245: `goto label` continues at a line that the label marks, `label:` goes on,
`if <cond> goto label` and `if <cond> stop` act exactly where the condition holds and go on where it does not, and nothing
else of the machine changes. `stop`, and going past the last line, end the run. A label no line has is refused, which is
the model's choice (notes/assumptions/10), and a step of a finished run changes nothing (notes/assumptions/7); that the
chip register image is among what does not change is notes/assumptions/26. -/
def Obligations.GotoContinuesAtLabel : Prop :=
  (∀ (s : State) (l : String), s.atLine (.goto l) → HostLine.label l ∈ s.program →
    ∃ n, step s = .next (s.setLine n) ∧ s.program[n]? = some (.label l)) ∧
  (∀ (s : State) (l : String), s.atLine (.goto l) → HostLine.label l ∉ s.program → step s = .refused (.noLabel l)) ∧
  (∀ (s : State) (l : String) (c : Cond), s.atLine (.ifGoto c l) →
    (c.holds s.names = .next true → HostLine.label l ∈ s.program →
      ∃ n, step s = .next (s.setLine n) ∧ s.program[n]? = some (.label l)) ∧
    (c.holds s.names = .next true → HostLine.label l ∉ s.program → step s = .refused (.noLabel l)) ∧
    (c.holds s.names = .next false → step s = .next (s.setLine (s.line + 1)))) ∧
  (∀ (s : State) (l : String), s.atLine (.label l) → step s = .next (s.setLine (s.line + 1))) ∧
  (∀ (s : State) (c : Cond), s.atLine (.ifStop c) →
    (c.holds s.names = .next true → step s = .next (s.setPhase .stopped) ∧ (s.setPhase .stopped).finished) ∧
    (c.holds s.names = .next false → step s = .next (s.setLine (s.line + 1)))) ∧
  (∀ s : State, s.atLine .stop → step s = .next (s.setPhase .stopped) ∧ (s.setPhase .stopped).finished) ∧
  (∀ s : State, s.request = [] → s.phase = .running → s.program.length ≤ s.line → s.finished) ∧
  (∀ s : State, s.finished → step s = .next s)

/-- 30_encoding.md R70: `x = n` and `x = y + n` bind one name to the host integer, leave every other name, the chip and the
ports alone, and go on to the next line. R70 writes `name = name + n`; that x and y may be two names is the model's choice
(notes/assumptions/10); that the chip register image stays where no access happens is notes/assumptions/26. -/
def Obligations.HostIntegersAssigned : Prop :=
  ∀ (s : State) (x y : String) (n k : Int),
    (s.atLine (.assign x n) → ∃ t, step s = .next t ∧ t.names.lookup x = some (.int n) ∧
      (∀ z, z ≠ x → t.names.lookup z = s.names.lookup z) ∧ t.line = s.line + 1 ∧ t.chip = s.chip ∧
      t.request = [] ∧ t.response = s.response) ∧
    (s.atLine (.add x y n) → s.names.lookup y = some (.int k) → ∃ t, step s = .next t ∧
      t.names.lookup x = some (.int (k + n)) ∧ (∀ z, z ≠ x → t.names.lookup z = s.names.lookup z) ∧
      t.line = s.line + 1 ∧ t.chip = s.chip ∧ t.request = [] ∧ t.response = s.response)
end

