-- ==== Sys2Proof/Laws/State.lean ====
section
/-! SUPPORT. One lemma for each field of State under each of its updates, and the lemma that says all a composed
operation can do, so that no proof unfolds a record update. -/

namespace Sys2Proof.Machine

/-- Forgetting n reads from a on leaves every other read. -/
theorem forgetRead_get (n : Nat) : ∀ (r : Vector (Option Byte) 19) (a b : Nat), a + n ≤ 19 →
    (forgetRead r a n)[b]? = if a ≤ b ∧ b < a + n then some none else r[b]? := by
  induction n with
  | zero => intro r a b _; rw [forgetRead, if_neg (by omega)]
  | succ n ih =>
    intro r a b h
    rw [forgetRead, ih _ _ _ (by omega), Vector.getElem?_setIfInBounds]
    split_ifs <;> first | rfl | omega

section Updates

variable (s : State)

@[simp] theorem setRequest_epochBase (bs : List Byte) : (s.setRequest bs).epochBase = s.epochBase := rfl
@[simp] theorem setRequest_hour12Policy (bs : List Byte) : (s.setRequest bs).hour12Policy = s.hour12Policy := rfl
@[simp] theorem setRequest_request (bs : List Byte) : (s.setRequest bs).request = bs := rfl
@[simp] theorem setRequest_response (bs : List Byte) : (s.setRequest bs).response = s.response := rfl
@[simp] theorem setRequest_chip (bs : List Byte) : (s.setRequest bs).chip = s.chip := rfl
@[simp] theorem setRequest_bus (bs : List Byte) : (s.setRequest bs).bus = s.bus := rfl
@[simp] theorem setRequest_accesses (bs : List Byte) : (s.setRequest bs).accesses = s.accesses := rfl
@[simp] theorem setRequest_lastRead (bs : List Byte) : (s.setRequest bs).lastRead = s.lastRead := rfl
@[simp] theorem setRequest_program (bs : List Byte) : (s.setRequest bs).program = s.program := rfl
@[simp] theorem setRequest_line (bs : List Byte) : (s.setRequest bs).line = s.line := rfl
@[simp] theorem setRequest_names (bs : List Byte) : (s.setRequest bs).names = s.names := rfl
@[simp] theorem setRequest_phase (bs : List Byte) : (s.setRequest bs).phase = s.phase := rfl

@[simp] theorem setResponse_epochBase (r : Option Response) : (s.setResponse r).epochBase = s.epochBase := rfl
@[simp] theorem setResponse_hour12Policy (r : Option Response) : (s.setResponse r).hour12Policy = s.hour12Policy := rfl
@[simp] theorem setResponse_request (r : Option Response) : (s.setResponse r).request = s.request := rfl
@[simp] theorem setResponse_response (r : Option Response) : (s.setResponse r).response = r := rfl
@[simp] theorem setResponse_chip (r : Option Response) : (s.setResponse r).chip = s.chip := rfl
@[simp] theorem setResponse_bus (r : Option Response) : (s.setResponse r).bus = s.bus := rfl
@[simp] theorem setResponse_accesses (r : Option Response) : (s.setResponse r).accesses = s.accesses := rfl
@[simp] theorem setResponse_lastRead (r : Option Response) : (s.setResponse r).lastRead = s.lastRead := rfl
@[simp] theorem setResponse_program (r : Option Response) : (s.setResponse r).program = s.program := rfl
@[simp] theorem setResponse_line (r : Option Response) : (s.setResponse r).line = s.line := rfl
@[simp] theorem setResponse_names (r : Option Response) : (s.setResponse r).names = s.names := rfl
@[simp] theorem setResponse_phase (r : Option Response) : (s.setResponse r).phase = s.phase := rfl

@[simp] theorem setLine_epochBase (n : Nat) : (s.setLine n).epochBase = s.epochBase := rfl
@[simp] theorem setLine_hour12Policy (n : Nat) : (s.setLine n).hour12Policy = s.hour12Policy := rfl
@[simp] theorem setLine_request (n : Nat) : (s.setLine n).request = s.request := rfl
@[simp] theorem setLine_response (n : Nat) : (s.setLine n).response = s.response := rfl
@[simp] theorem setLine_chip (n : Nat) : (s.setLine n).chip = s.chip := rfl
@[simp] theorem setLine_bus (n : Nat) : (s.setLine n).bus = s.bus := rfl
@[simp] theorem setLine_accesses (n : Nat) : (s.setLine n).accesses = s.accesses := rfl
@[simp] theorem setLine_lastRead (n : Nat) : (s.setLine n).lastRead = s.lastRead := rfl
@[simp] theorem setLine_program (n : Nat) : (s.setLine n).program = s.program := rfl
@[simp] theorem setLine_line (n : Nat) : (s.setLine n).line = n := rfl
@[simp] theorem setLine_names (n : Nat) : (s.setLine n).names = s.names := rfl
@[simp] theorem setLine_phase (n : Nat) : (s.setLine n).phase = s.phase := rfl

@[simp] theorem setPhase_epochBase (p : HostPhase) : (s.setPhase p).epochBase = s.epochBase := rfl
@[simp] theorem setPhase_hour12Policy (p : HostPhase) : (s.setPhase p).hour12Policy = s.hour12Policy := rfl
@[simp] theorem setPhase_request (p : HostPhase) : (s.setPhase p).request = s.request := rfl
@[simp] theorem setPhase_response (p : HostPhase) : (s.setPhase p).response = s.response := rfl
@[simp] theorem setPhase_chip (p : HostPhase) : (s.setPhase p).chip = s.chip := rfl
@[simp] theorem setPhase_bus (p : HostPhase) : (s.setPhase p).bus = s.bus := rfl
@[simp] theorem setPhase_accesses (p : HostPhase) : (s.setPhase p).accesses = s.accesses := rfl
@[simp] theorem setPhase_lastRead (p : HostPhase) : (s.setPhase p).lastRead = s.lastRead := rfl
@[simp] theorem setPhase_program (p : HostPhase) : (s.setPhase p).program = s.program := rfl
@[simp] theorem setPhase_line (p : HostPhase) : (s.setPhase p).line = s.line := rfl
@[simp] theorem setPhase_names (p : HostPhase) : (s.setPhase p).names = s.names := rfl
@[simp] theorem setPhase_phase (p : HostPhase) : (s.setPhase p).phase = p := rfl

@[simp] theorem setNames_epochBase (ns : Names) : (s.setNames ns).epochBase = s.epochBase := rfl
@[simp] theorem setNames_hour12Policy (ns : Names) : (s.setNames ns).hour12Policy = s.hour12Policy := rfl
@[simp] theorem setNames_request (ns : Names) : (s.setNames ns).request = s.request := rfl
@[simp] theorem setNames_response (ns : Names) : (s.setNames ns).response = s.response := rfl
@[simp] theorem setNames_chip (ns : Names) : (s.setNames ns).chip = s.chip := rfl
@[simp] theorem setNames_bus (ns : Names) : (s.setNames ns).bus = s.bus := rfl
@[simp] theorem setNames_accesses (ns : Names) : (s.setNames ns).accesses = s.accesses := rfl
@[simp] theorem setNames_lastRead (ns : Names) : (s.setNames ns).lastRead = s.lastRead := rfl
@[simp] theorem setNames_program (ns : Names) : (s.setNames ns).program = s.program := rfl
@[simp] theorem setNames_line (ns : Names) : (s.setNames ns).line = s.line := rfl
@[simp] theorem setNames_names (ns : Names) : (s.setNames ns).names = ns := rfl
@[simp] theorem setNames_phase (ns : Names) : (s.setNames ns).phase = s.phase := rfl

@[simp] theorem setChip_epochBase (c : ChipImage) : (s.setChip c).epochBase = s.epochBase := rfl
@[simp] theorem setChip_hour12Policy (c : ChipImage) : (s.setChip c).hour12Policy = s.hour12Policy := rfl
@[simp] theorem setChip_request (c : ChipImage) : (s.setChip c).request = s.request := rfl
@[simp] theorem setChip_response (c : ChipImage) : (s.setChip c).response = s.response := rfl
@[simp] theorem setChip_chip (c : ChipImage) : (s.setChip c).chip = c := rfl
@[simp] theorem setChip_bus (c : ChipImage) : (s.setChip c).bus = s.bus := rfl
@[simp] theorem setChip_accesses (c : ChipImage) : (s.setChip c).accesses = s.accesses := rfl
@[simp] theorem setChip_lastRead (c : ChipImage) : (s.setChip c).lastRead = s.lastRead := rfl
@[simp] theorem setChip_program (c : ChipImage) : (s.setChip c).program = s.program := rfl
@[simp] theorem setChip_line (c : ChipImage) : (s.setChip c).line = s.line := rfl
@[simp] theorem setChip_names (c : ChipImage) : (s.setChip c).names = s.names := rfl
@[simp] theorem setChip_phase (c : ChipImage) : (s.setChip c).phase = s.phase := rfl

@[simp] theorem setBus_epochBase (b : List Access) : (s.setBus b).epochBase = s.epochBase := rfl
@[simp] theorem setBus_hour12Policy (b : List Access) : (s.setBus b).hour12Policy = s.hour12Policy := rfl
@[simp] theorem setBus_request (b : List Access) : (s.setBus b).request = s.request := rfl
@[simp] theorem setBus_response (b : List Access) : (s.setBus b).response = s.response := rfl
@[simp] theorem setBus_chip (b : List Access) : (s.setBus b).chip = s.chip := rfl
@[simp] theorem setBus_bus (b : List Access) : (s.setBus b).bus = b := rfl
@[simp] theorem setBus_accesses (b : List Access) : (s.setBus b).accesses = s.accesses := rfl
@[simp] theorem setBus_lastRead (b : List Access) : (s.setBus b).lastRead = s.lastRead := rfl
@[simp] theorem setBus_program (b : List Access) : (s.setBus b).program = s.program := rfl
@[simp] theorem setBus_line (b : List Access) : (s.setBus b).line = s.line := rfl
@[simp] theorem setBus_names (b : List Access) : (s.setBus b).names = s.names := rfl
@[simp] theorem setBus_phase (b : List Access) : (s.setBus b).phase = s.phase := rfl

@[simp] theorem setLastRead_epochBase (l : Vector (Option Byte) 19) : (s.setLastRead l).epochBase = s.epochBase := rfl
@[simp] theorem setLastRead_hour12Policy (l : Vector (Option Byte) 19) : (s.setLastRead l).hour12Policy = s.hour12Policy := rfl
@[simp] theorem setLastRead_request (l : Vector (Option Byte) 19) : (s.setLastRead l).request = s.request := rfl
@[simp] theorem setLastRead_response (l : Vector (Option Byte) 19) : (s.setLastRead l).response = s.response := rfl
@[simp] theorem setLastRead_chip (l : Vector (Option Byte) 19) : (s.setLastRead l).chip = s.chip := rfl
@[simp] theorem setLastRead_bus (l : Vector (Option Byte) 19) : (s.setLastRead l).bus = s.bus := rfl
@[simp] theorem setLastRead_accesses (l : Vector (Option Byte) 19) : (s.setLastRead l).accesses = s.accesses := rfl
@[simp] theorem setLastRead_lastRead (l : Vector (Option Byte) 19) : (s.setLastRead l).lastRead = l := rfl
@[simp] theorem setLastRead_program (l : Vector (Option Byte) 19) : (s.setLastRead l).program = s.program := rfl
@[simp] theorem setLastRead_line (l : Vector (Option Byte) 19) : (s.setLastRead l).line = s.line := rfl
@[simp] theorem setLastRead_names (l : Vector (Option Byte) 19) : (s.setLastRead l).names = s.names := rfl
@[simp] theorem setLastRead_phase (l : Vector (Option Byte) 19) : (s.setLastRead l).phase = s.phase := rfl

@[simp] theorem setAccesses_epochBase (n : Nat) : (s.setAccesses n).epochBase = s.epochBase := rfl
@[simp] theorem setAccesses_hour12Policy (n : Nat) : (s.setAccesses n).hour12Policy = s.hour12Policy := rfl
@[simp] theorem setAccesses_request (n : Nat) : (s.setAccesses n).request = s.request := rfl
@[simp] theorem setAccesses_response (n : Nat) : (s.setAccesses n).response = s.response := rfl
@[simp] theorem setAccesses_chip (n : Nat) : (s.setAccesses n).chip = s.chip := rfl
@[simp] theorem setAccesses_bus (n : Nat) : (s.setAccesses n).bus = s.bus := rfl
@[simp] theorem setAccesses_accesses (n : Nat) : (s.setAccesses n).accesses = n := rfl
@[simp] theorem setAccesses_lastRead (n : Nat) : (s.setAccesses n).lastRead = s.lastRead := rfl
@[simp] theorem setAccesses_program (n : Nat) : (s.setAccesses n).program = s.program := rfl
@[simp] theorem setAccesses_line (n : Nat) : (s.setAccesses n).line = s.line := rfl
@[simp] theorem setAccesses_names (n : Nat) : (s.setAccesses n).names = s.names := rfl
@[simp] theorem setAccesses_phase (n : Nat) : (s.setAccesses n).phase = s.phase := rfl

@[simp] theorem endAccess_epochBase : s.endAccess.epochBase = s.epochBase := rfl
@[simp] theorem endAccess_hour12Policy : s.endAccess.hour12Policy = s.hour12Policy := rfl
@[simp] theorem endAccess_request : s.endAccess.request = s.request := rfl
@[simp] theorem endAccess_response : s.endAccess.response = s.response := rfl
@[simp] theorem endAccess_chip : s.endAccess.chip = s.chip := rfl
@[simp] theorem endAccess_bus : s.endAccess.bus = s.bus.tail := rfl
@[simp] theorem endAccess_accesses : s.endAccess.accesses = s.accesses + 1 := rfl
@[simp] theorem endAccess_lastRead : s.endAccess.lastRead = s.lastRead := rfl
@[simp] theorem endAccess_program : s.endAccess.program = s.program := rfl
@[simp] theorem endAccess_line : s.endAccess.line = s.line := rfl
@[simp] theorem endAccess_names : s.endAccess.names = s.names := rfl
@[simp] theorem endAccess_phase : s.endAccess.phase = s.phase := rfl

@[simp] theorem forgetDateBlock_epochBase : s.forgetDateBlock.epochBase = s.epochBase := by rw [State.forgetDateBlock, setLastRead_epochBase]
@[simp] theorem forgetDateBlock_hour12Policy : s.forgetDateBlock.hour12Policy = s.hour12Policy := by rw [State.forgetDateBlock, setLastRead_hour12Policy]
@[simp] theorem forgetDateBlock_request : s.forgetDateBlock.request = s.request := by rw [State.forgetDateBlock, setLastRead_request]
@[simp] theorem forgetDateBlock_response : s.forgetDateBlock.response = s.response := by rw [State.forgetDateBlock, setLastRead_response]
@[simp] theorem forgetDateBlock_chip : s.forgetDateBlock.chip = s.chip := by rw [State.forgetDateBlock, setLastRead_chip]
@[simp] theorem forgetDateBlock_bus : s.forgetDateBlock.bus = s.bus := by rw [State.forgetDateBlock, setLastRead_bus]
@[simp] theorem forgetDateBlock_accesses : s.forgetDateBlock.accesses = s.accesses := by rw [State.forgetDateBlock, setLastRead_accesses]
@[simp] theorem forgetDateBlock_program : s.forgetDateBlock.program = s.program := by rw [State.forgetDateBlock, setLastRead_program]
@[simp] theorem forgetDateBlock_line : s.forgetDateBlock.line = s.line := by rw [State.forgetDateBlock, setLastRead_line]
@[simp] theorem forgetDateBlock_names : s.forgetDateBlock.names = s.names := by rw [State.forgetDateBlock, setLastRead_names]
@[simp] theorem forgetDateBlock_phase : s.forgetDateBlock.phase = s.phase := by rw [State.forgetDateBlock, setLastRead_phase]
/-- After the date block is written the host has no current read of its registers, and every other read stands. -/
theorem forgetDateBlock_lastRead (a : Nat) :
    s.forgetDateBlock.lastRead[a]? = if a < 7 then some none else s.lastRead[a]? := by
  rw [State.forgetDateBlock, setLastRead_lastRead, forgetRead_get _ _ _ _ (by omega)]
  simp

@[simp] theorem respond_epochBase (r : Response) : (s.respond r).epochBase = s.epochBase := rfl
@[simp] theorem respond_hour12Policy (r : Response) : (s.respond r).hour12Policy = s.hour12Policy := rfl
@[simp] theorem respond_request (r : Response) : (s.respond r).request = s.request := rfl
@[simp] theorem respond_response (r : Response) : (s.respond r).response = some r := rfl
@[simp] theorem respond_chip (r : Response) : (s.respond r).chip = s.chip := rfl
@[simp] theorem respond_bus (r : Response) : (s.respond r).bus = s.bus := rfl
@[simp] theorem respond_accesses (r : Response) : (s.respond r).accesses = s.accesses := rfl
@[simp] theorem respond_lastRead (r : Response) : (s.respond r).lastRead = s.lastRead := rfl
@[simp] theorem respond_program (r : Response) : (s.respond r).program = s.program := rfl
@[simp] theorem respond_line (r : Response) : (s.respond r).line = s.line := rfl
@[simp] theorem respond_names (r : Response) : (s.respond r).names = s.names := rfl
@[simp] theorem respond_phase (r : Response) : (s.respond r).phase = s.phase := rfl

@[simp] theorem nextLine_epochBase : s.nextLine.epochBase = s.epochBase := rfl
@[simp] theorem nextLine_hour12Policy : s.nextLine.hour12Policy = s.hour12Policy := rfl
@[simp] theorem nextLine_request : s.nextLine.request = s.request := rfl
@[simp] theorem nextLine_response : s.nextLine.response = s.response := rfl
@[simp] theorem nextLine_chip : s.nextLine.chip = s.chip := rfl
@[simp] theorem nextLine_bus : s.nextLine.bus = s.bus := rfl
@[simp] theorem nextLine_accesses : s.nextLine.accesses = s.accesses := rfl
@[simp] theorem nextLine_lastRead : s.nextLine.lastRead = s.lastRead := rfl
@[simp] theorem nextLine_program : s.nextLine.program = s.program := rfl
@[simp] theorem nextLine_line : s.nextLine.line = s.line + 1 := rfl
@[simp] theorem nextLine_names : s.nextLine.names = s.names := rfl
@[simp] theorem nextLine_phase : s.nextLine.phase = s.phase := rfl

@[simp] theorem present_epochBase (x : Option String) (i : Instr) : (s.present x i).epochBase = s.epochBase := rfl
@[simp] theorem present_hour12Policy (x : Option String) (i : Instr) : (s.present x i).hour12Policy = s.hour12Policy := rfl
@[simp] theorem present_request (x : Option String) (i : Instr) : (s.present x i).request = encode i := rfl
@[simp] theorem present_response (x : Option String) (i : Instr) : (s.present x i).response = none := rfl
@[simp] theorem present_chip (x : Option String) (i : Instr) : (s.present x i).chip = s.chip := rfl
@[simp] theorem present_bus (x : Option String) (i : Instr) : (s.present x i).bus = s.bus := rfl
@[simp] theorem present_accesses (x : Option String) (i : Instr) : (s.present x i).accesses = s.accesses := rfl
@[simp] theorem present_lastRead (x : Option String) (i : Instr) : (s.present x i).lastRead = s.lastRead := rfl
@[simp] theorem present_program (x : Option String) (i : Instr) : (s.present x i).program = s.program := rfl
@[simp] theorem present_line (x : Option String) (i : Instr) : (s.present x i).line = s.line := rfl
@[simp] theorem present_names (x : Option String) (i : Instr) : (s.present x i).names = s.names := rfl
@[simp] theorem present_phase (x : Option String) (i : Instr) : (s.present x i).phase = .awaiting x := rfl

@[simp] theorem bind_epochBase (x : Option String) (v : HostValue) : (s.bind x v).epochBase = s.epochBase := by cases x <;> rfl
@[simp] theorem bind_hour12Policy (x : Option String) (v : HostValue) : (s.bind x v).hour12Policy = s.hour12Policy := by cases x <;> rfl
@[simp] theorem bind_request (x : Option String) (v : HostValue) : (s.bind x v).request = s.request := by cases x <;> rfl
@[simp] theorem bind_response (x : Option String) (v : HostValue) : (s.bind x v).response = s.response := by cases x <;> rfl
@[simp] theorem bind_chip (x : Option String) (v : HostValue) : (s.bind x v).chip = s.chip := by cases x <;> rfl
@[simp] theorem bind_bus (x : Option String) (v : HostValue) : (s.bind x v).bus = s.bus := by cases x <;> rfl
@[simp] theorem bind_accesses (x : Option String) (v : HostValue) : (s.bind x v).accesses = s.accesses := by cases x <;> rfl
@[simp] theorem bind_lastRead (x : Option String) (v : HostValue) : (s.bind x v).lastRead = s.lastRead := by cases x <;> rfl
@[simp] theorem bind_program (x : Option String) (v : HostValue) : (s.bind x v).program = s.program := by cases x <;> rfl
@[simp] theorem bind_line (x : Option String) (v : HostValue) : (s.bind x v).line = s.line := by cases x <;> rfl
/-- Binding a name replaces the host's bindings only. -/
theorem bind_names (x : Option String) (v : HostValue) :
    (s.bind x v).names = match x with | some y => bindName y v s.names | none => s.names := by
  cases x <;> rfl
@[simp] theorem bind_phase (x : Option String) (v : HostValue) : (s.bind x v).phase = s.phase := by cases x <;> rfl

/-- 60_exceptions.md R200: an operation that ends gives exactly one response and changes nothing else. -/
theorem answer_eq_respond (r : Except CodecError Result) :
    s.answer r = s.respond (match r with | .ok v => .ok v | .error e => .error e) := by
  cases r <;> rfl

/-- Taking an error gives that error as the response. -/
theorem raise_eq_respond (e : CodecError) : s.raise e = s.respond (.error e) := rfl

end Updates

end Sys2Proof.Machine
end

