-- ==== Sys2Proof/Laws/Chip.lean ====
section
/-! SUPPORT. The chip register image under transfers: a read after a write gives the value written, a write leaves every
other register alone, a block operation leaves all of them alone. -/

namespace Sys2Proof.Machine

/-- A register after one byte is stored. -/
theorem chipByte_set (image : ChipImage) (a b : Nat) (v : Byte) :
    chipByte (image.setIfInBounds a v) b = if a = b ∧ a < chipSize then some v else chipByte image b := by
  simp only [chipByte, chipSize, Vector.getElem?_setIfInBounds]
  split_ifs <;> simp_all

/-- The status register is the byte at its address. -/
theorem chipByte_status (image : ChipImage) : chipByte image 0x0F = some (statusByte image) := by
  simp [chipByte, statusByte, ChipReg.address]

/-- One stored byte, off the status register (20_memory.md R48). -/
theorem chipByte_chipStore (image : ChipImage) (a b : Nat) (v : Byte) (h : b ≠ 0x0F) :
    chipByte (chipStore image a v) b = if a = b ∧ a < chipSize then some v else chipByte image b := by
  have hs : ¬(ChipReg.STATUS.address = b ∧ ChipReg.STATUS.address < chipSize) := fun hc => h hc.1.symm
  rw [chipStore, chipByte_set, if_neg hs, chipByte_set]

/-- One stored byte, on the status register (20_memory.md R50). -/
theorem statusByte_chipStore (image : ChipImage) (a : Nat) (v : Byte) :
    statusByte (chipStore image a v) = statusAfter (statusByte image) a v := by
  have h := chipByte_status (chipStore image a v)
  rw [chipStore, chipByte_set, if_pos (by decide)] at h
  exact (Option.some.inj h).symm

/-- What a write does to every register but the status register: inside, byte k is the register at address + k; outside,
nothing (20_memory.md R44, R48). -/
theorem chipByte_chipWrite (bs : List Byte) : ∀ (image : ChipImage) (a b : Nat), a + bs.length ≤ chipSize → b ≠ 0x0F →
    chipByte (chipWrite image a bs) b = (carriedTo a bs b).or (chipByte image b) := by
  induction bs with
  | nil => intro _ a b _ _; simp [chipWrite, carriedTo]
  | cons v bs ih =>
    intro image a b h hb
    simp only [List.length_cons] at h
    rw [chipWrite, ih _ _ _ (by omega) hb, chipByte_chipStore _ _ _ _ hb]
    by_cases h1 : a = b
    · subst h1
      simp [carriedTo, show a < chipSize by omega]
    · by_cases h2 : a + 1 ≤ b
      · have e : b - a = (b - (a + 1)) + 1 := by omega
        simp [carriedTo, h1, h2, show a ≤ b by omega, e]
      · simp [carriedTo, h1, h2, show ¬a ≤ b by omega]

/-- A write that starts above the status register leaves it alone. -/
theorem statusByte_chipWrite_above (bs : List Byte) : ∀ (image : ChipImage) (a : Nat), 0x0F < a →
    statusByte (chipWrite image a bs) = statusByte image := by
  induction bs with
  | nil => intros; rfl
  | cons v bs ih =>
    intro image a h
    rw [chipWrite, ih _ _ (by omega), statusByte_chipStore, statusAfter, if_neg (by simp only [ChipReg.address]; omega),
      if_neg (by simp only [ChipReg.address]; omega)]

/-- What a write does to the status register: the byte it carries for it but BSY, after what the byte it carries for the
control register does (20_memory.md R50). -/
theorem statusByte_chipWrite (bs : List Byte) : ∀ (image : ChipImage) (a : Nat),
    statusByte (chipWrite image a bs) =
      (carriedTo a bs 0x0F).elim
        ((carriedTo a bs 0x0E).elim (statusByte image) (statusAfter (statusByte image) 0x0E))
        (statusAfter ((carriedTo a bs 0x0E).elim (statusByte image) (statusAfter (statusByte image) 0x0E)) 0x0F) := by
  induction bs with
  | nil => intro _ a; simp [chipWrite, carriedTo]
  | cons v bs ih =>
    intro image a
    rw [chipWrite]
    by_cases h1 : a = 0x0F
    · subst h1
      rw [statusByte_chipWrite_above _ _ _ (by omega), statusByte_chipStore]
      simp [carriedTo]
    · by_cases h2 : 0x0F < a
      · rw [statusByte_chipWrite_above _ _ _ (by omega), statusByte_chipStore, statusAfter,
          if_neg (by simp only [ChipReg.address]; omega), if_neg (by simp only [ChipReg.address]; omega)]
        simp [carriedTo, show ¬a ≤ 15 by omega, show ¬a ≤ 14 by omega]
      · rw [ih, statusByte_chipStore]
        have e : 15 - a = (15 - (a + 1)) + 1 := by omega
        by_cases h3 : a = 0x0E
        · subst h3
          simp [carriedTo]
        · have e' : 14 - a = (14 - (a + 1)) + 1 := by omega
          have hn : statusAfter (statusByte image) a v = statusByte image := by
            rw [statusAfter, if_neg (by simpa only [ChipReg.address] using h1),
              if_neg (by simp only [ChipReg.address]; omega)]
          simp [carriedTo, show a ≤ 15 by omega, show a + 1 ≤ 15 by omega, show a ≤ 14 by omega,
            show a + 1 ≤ 14 by omega, e, e', hn]

/-- Byte k of a read is the register at address + k (20_memory.md R44). -/
theorem chipRead_get (image : ChipImage) (a n k : Nat) (h : k < n) :
    (chipRead image a n)[k]? = chipByte image (a + k) := by
  simp [chipRead, chipByte, h]

/-- A transfer inside the map brings as many bytes as were asked for. -/
theorem chipRead_length (image : ChipImage) (a n : Nat) (h : a + n ≤ chipSize) :
    (chipRead image a n).length = n := by
  simp only [chipSize] at h
  simp [chipRead]
  omega

/-- On a quiet access the chip holds what it held. -/
theorem chipNow_of_quiet {s : State} (h : s.access = .quiet) : s.chipNow = s.chip := by
  simp [State.chipNow, h, Access.quiet, chipChange]

/-- On a quiet access a read changes no register. -/
theorem transportRead_chip_of_quiet {s : State} (h : s.access = .quiet) (a n : Nat) :
    (s.transportRead a n).chip = s.chip := by
  simp [State.transportRead, chipNow_of_quiet h, h, Access.quiet, chipChange]

/-- On a quiet access a write stores its bytes. -/
theorem transportWrite_chip_of_quiet {s : State} (h : s.access = .quiet) (a : Nat) (bs : List Byte) :
    (s.transportWrite a bs).chip = chipWrite s.chip a bs := by
  simp [State.transportWrite, chipNow_of_quiet h, h, Access.quiet, chipChange, transferWrite]

end Sys2Proof.Machine
end

