-- ==== Sys2Proof/Laws/Decode.lean ====
section
/-! SUPPORT. Small lemmas of the decoder and the encoder: byte order, nibbles, opcodes. -/

namespace Sys2Proof

/-- Every defined OP byte names its own opcode (30_encoding.md R65). -/
theorem opcodeOf_opcodeByte (o : Opcode) : opcodeOf (opcodeByte o) = some o := by
  cases o <;> rfl

/-- Only the six table bytes name an opcode. -/
theorem opcodeByte_of_opcodeOf {op : Byte} {o : Opcode} (h : opcodeOf op = some o) : op = opcodeByte o := by
  revert h
  simp only [opcodeOf]
  split_ifs <;> simp_all <;> rintro rfl <;> rfl

/-- A 16-bit port field is put together again from its two bytes (20_memory.md R45(c)). -/
theorem halfOf_high_low (h : Half) : halfOf (highByte h) (lowByte h) = h := by
  apply BitVec.eq_of_toNat_eq
  have := h.isLt
  simp only [halfOf, highByte, lowByte, BitVec.toNat_append, BitVec.extractLsb'_toNat]
  rw [← Nat.shiftLeft_add_eq_or_of_lt (by omega)]
  simp only [Nat.shiftRight_eq_div_pow, Nat.shiftLeft_eq]
  omega

/-- The high byte of a 16-bit port field (20_memory.md R45(c)). -/
theorem highByte_halfOf (hi lo : Byte) : highByte (halfOf hi lo) = hi := by
  apply BitVec.eq_of_toNat_eq
  have h1 := hi.isLt
  have h2 := lo.isLt
  simp only [halfOf, highByte, BitVec.toNat_append, BitVec.extractLsb'_toNat]
  rw [← Nat.shiftLeft_add_eq_or_of_lt h2]
  simp only [Nat.shiftRight_eq_div_pow, Nat.shiftLeft_eq]
  omega

/-- The low byte of a 16-bit port field (20_memory.md R45(c)). -/
theorem lowByte_halfOf (hi lo : Byte) : lowByte (halfOf hi lo) = lo := by
  apply BitVec.eq_of_toNat_eq
  have h1 := hi.isLt
  have h2 := lo.isLt
  simp only [halfOf, lowByte, BitVec.toNat_append, BitVec.extractLsb'_toNat]
  rw [← Nat.shiftLeft_add_eq_or_of_lt h2]
  simp only [Nat.shiftRight_eq_div_pow, Nat.shiftLeft_eq]
  omega

/-- FMT_N (30_encoding.md R62): TENS is the high nibble of its byte. -/
theorem tensOf_append : ∀ t o : Nibble, tensOf (t ++ o : BitVec 8) = t := by decide

/-- FMT_N (30_encoding.md R62): ONES is the low nibble of its byte. -/
theorem onesOf_append : ∀ t o : Nibble, onesOf (t ++ o : BitVec 8) = o := by decide

/-- FMT_N (30_encoding.md R62): a byte is its two nibbles. -/
theorem tensOf_append_onesOf : ∀ b : Byte, (tensOf b ++ onesOf b : BitVec 8) = b := by decide

end Sys2Proof
end

