-- ==== Sys2Proof/Laws/Fields.lean ====
section
/-! SUPPORT. The fields DT.DEC reads, as the bit positions 41_datetime.md R121 to R131 name. -/

namespace Sys2Proof.Machine

theorem get_SEC_TENS : ∀ b : Byte, ChipField.SEC_TENS.get b = bits b 6 4 := by decide

theorem get_SEC_ONES : ∀ b : Byte, ChipField.SEC_ONES.get b = bits b 3 0 := by decide

theorem get_MIN_TENS : ∀ b : Byte, ChipField.MIN_TENS.get b = bits b 6 4 := by decide

theorem get_MIN_ONES : ∀ b : Byte, ChipField.MIN_ONES.get b = bits b 3 0 := by decide

theorem get_HR_MODE12 : ∀ b : Byte, ChipField.HR_MODE12.get b = bits b 6 6 := by decide

theorem get_HR_PM20 : ∀ b : Byte, ChipField.HR_PM20.get b = bits b 5 5 := by decide

theorem get_HR_TENS : ∀ b : Byte, ChipField.HR_TENS.get b = bits b 4 4 := by decide

theorem get_HR_ONES : ∀ b : Byte, ChipField.HR_ONES.get b = bits b 3 0 := by decide

theorem get_WD_DAY : ∀ b : Byte, ChipField.WD_DAY.get b = bits b 2 0 := by decide

theorem get_DATE_TENS : ∀ b : Byte, ChipField.DATE_TENS.get b = bits b 5 4 := by decide

theorem get_DATE_ONES : ∀ b : Byte, ChipField.DATE_ONES.get b = bits b 3 0 := by decide

theorem get_MON_TENS : ∀ b : Byte, ChipField.MON_TENS.get b = bits b 4 4 := by decide

theorem get_MON_ONES : ∀ b : Byte, ChipField.MON_ONES.get b = bits b 3 0 := by decide

theorem get_YR_TENS : ∀ b : Byte, ChipField.YR_TENS.get b = bits b 7 4 := by decide

theorem get_YR_ONES : ∀ b : Byte, ChipField.YR_ONES.get b = bits b 3 0 := by decide

/-- The table lists every field. -/
theorem mem_all (f : ChipField) : f ∈ ChipField.all := by cases f <;> decide

end Sys2Proof.Machine
end

