-- ==== Sys2Proof/Laws/Names.lean ====
section
/-! SUPPORT. The host's bindings: a bound name stands for what was bound last, every other name for what it stood for,
and binding keeps the canonical form. -/

namespace Sys2Proof.Machine

/-- A name stands for what it was bound to last. -/
theorem lookup_bindName_self (x : String) (v : HostValue) (ns : Names) : (bindName x v ns).lookup x = some v := by
  induction ns with
  | nil => simp [bindName]
  | cons p rest ih =>
    obtain ⟨y, w⟩ := p
    by_cases h1 : x < y
    · simp [bindName, h1]
    · by_cases h2 : x = y
      · simp [bindName, h2]
      · have : (x == y) = false := by simpa using h2
        simp [bindName, h1, h2, List.lookup, this, ih]

/-- Binding a name leaves every other name's binding alone. -/
theorem lookup_bindName_other {x y : String} (v : HostValue) (ns : Names) (h : y ≠ x) :
    (bindName x v ns).lookup y = ns.lookup y := by
  have hyx : (y == x) = false := by simpa using h
  induction ns with
  | nil => simp [bindName, List.lookup, hyx]
  | cons p rest ih =>
    obtain ⟨z, w⟩ := p
    by_cases h1 : x < z
    · simp [bindName, h1, List.lookup, hyx]
    · by_cases h2 : x = z
      · subst h2
        simp [bindName, List.lookup, hyx]
      · simp only [bindName, h1, h2, if_false, List.lookup]
        split <;> simp_all

/-- Every binding after a bind is the new one or was there before. -/
theorem mem_bindName {x : String} {v : HostValue} {ns : Names} {p : String × HostValue} (h : p ∈ bindName x v ns) :
    p = (x, v) ∨ p ∈ ns := by
  induction ns with
  | nil => simpa [bindName] using h
  | cons q rest ih =>
    obtain ⟨y, w⟩ := q
    simp only [bindName] at h
    split at h
    · simpa using h
    · split at h
      · rcases List.mem_cons.mp h with h | h <;> simp [h]
      · rcases List.mem_cons.mp h with h | h
        · simp [h]
        · rcases ih h with h | h <;> simp [h]

/-- Binding keeps the names strictly rising. -/
theorem bindName_wf {x : String} {v : HostValue} {ns : Names} (h : Names.wf ns) : Names.wf (bindName x v ns) := by
  induction ns with
  | nil => simp [bindName, Names.wf]
  | cons p rest ih =>
    obtain ⟨y, w⟩ := p
    obtain ⟨hy, hrest⟩ := List.pairwise_cons.mp h
    simp only [bindName]
    split
    · rename_i hxy
      refine List.pairwise_cons.mpr ⟨fun q hq => ?_, h⟩
      rcases List.mem_cons.mp hq with rfl | hq
      · exact hxy
      · exact lt_trans hxy (hy q hq)
    · split
      · rename_i hxy
        subst hxy
        exact List.pairwise_cons.mpr ⟨hy, hrest⟩
      · rename_i h1 h2
        refine List.pairwise_cons.mpr ⟨fun q hq => ?_, ih hrest⟩
        rcases mem_bindName hq with rfl | hq
        · exact lt_of_le_of_ne (not_lt.mp h1) (Ne.symm h2)
        · exact hy q hq

end Sys2Proof.Machine
end

