-- ==== Sys2Proof/Laws/PerInstr.lean ====
section
/-! SUPPORT. What holds of every instruction as syntax, one lemma for each constructor: its request frame has the length
that its OP byte fixes (30_encoding.md R69). -/

namespace Sys2Proof.Laws.FrameForm

/-- The frame begins with the operation's OP byte and is as long as that byte says. -/
def Statement (i : Instr) : Prop :=
  (encode i).head? = some (opcodeByte i.opcode) ∧ (encode i).length = frameLength (opcodeByte i.opcode)

theorem bcdEnc (v : Int) : Statement (.bcdEnc v) := ⟨rfl, rfl⟩

theorem bcdDec (tens ones : Nibble) : Statement (.bcdDec tens ones) := ⟨rfl, rfl⟩

theorem dtDec (p : PackedDate) : Statement (.dtDec p) := ⟨rfl, rfl⟩

theorem dtEnc (t : CalendarTime) : Statement (.dtEnc t) := ⟨rfl, rfl⟩

theorem fldGet (b m : Byte) : Statement (.fldGet b m) := ⟨rfl, rfl⟩

theorem fldSet (b m v : Byte) : Statement (.fldSet b m v) := ⟨rfl, rfl⟩

end Sys2Proof.Laws.FrameForm
end

