-- ==== Sys2Proof/Laws/Step.lean ====
section
/-! SUPPORT. What a step can do, said once: the inversion of an outcome that continues, and the frame of every host line. -/

namespace Sys2Proof.Machine

/-- An outcome that continued had a value to continue with. -/
theorem andThen_next {α β : Type} {o : Host.Outcome α Fault Refusal} {f : α → Host.Outcome β Fault Refusal} {b : β}
    (h : andThen o f = .next b) : ∃ a, o = .next a ∧ f a = .next b := by
  cases o with
  | next a => exact ⟨a, rfl, h⟩
  | fault e => exact absurd h (by simp [andThen])
  | refused r => exact absurd h (by simp [andThen])

/-- 20_memory.md R52: while bytes are at the request port the block moves. -/
theorem step_of_request {s : State} (h : s.request ≠ []) : step s = blockStep s := by
  unfold step
  split
  · contradiction
  · rfl

/-- 20_memory.md R52: with no request at the port the host moves. -/
theorem step_of_no_request {s : State} (h : s.request = []) : step s = hostStep s := by
  unfold step
  rw [h]

/-- What one line of the host program leaves when it goes on: a presented request, a read, a write, a binding, another
line, or a stop. -/
inductive LineEffect (s t : State) : Prop where
  | presented (x : Option String) (i : Instr) (h : t = s.present x i)
  | read (x : String) (a n : Nat) (fits : transferFits a n = true)
      (h : t = ((s.transportRead a n).bind (some x) (.bytes (s.readData a n))).nextLine)
  | wrote (a : Nat) (bs : List Byte) (fits : transferFits a bs.length = true)
      (keeps : allKeepProtected s.lastRead a bs = true) (h : t = (s.transportWrite a bs).nextLine)
  | wroteDate (p : PackedDate) (h : t = ((s.transportWrite 0x00 p.bytes).forgetDateBlock).nextLine)
  | bound (x : String) (n : Int) (h : t = (s.bind (some x) (.int n)).nextLine)
  | moved (n : Nat) (h : t = s.setLine n)
  | stopped (h : t = s.setPhase .stopped)

/-- A `goto` that continues moves the host to another line and does nothing else. -/
theorem hostGoto_next {l : String} {s t : State} (h : hostGoto l s = .next t) : ∃ n, t = s.setLine n := by
  unfold hostGoto at h
  split at h
  · exact ⟨_, by cases h; rfl⟩
  · cases h

/-- Everything a host line can do when it continues (30_encoding.md R70). -/
theorem hostLine_next {a : HostLine} {s t : State} (h : hostLine a s = .next t) : LineEffect s t := by
  cases a with
  | request x m ops =>
    obtain ⟨vs, -, h⟩ := andThen_next h
    obtain ⟨i, -, h⟩ := andThen_next h
    exact .presented x i (by cases h; rfl)
  | rd x addr n =>
    simp only [hostLine, hostRead] at h
    split at h
    · rename_i fits
      exact .read x _ n fits (by cases h; rfl)
    · cases h
  | wr addr vs =>
    simp only [hostLine, hostWrite] at h
    split at h
    · exact .wroteDate _ (by cases h; rfl)
    · obtain ⟨ns, -, h⟩ := andThen_next h
      obtain ⟨bs, -, h⟩ := andThen_next h
      simp only [hostWriteBytes] at h
      split at h
      · rename_i fits
        split at h
        · rename_i keeps
          exact .wrote _ bs fits keeps (by cases h; rfl)
        · cases h
      · cases h
  | assign x n => exact .bound x n (by cases h; rfl)
  | add x y n =>
    obtain ⟨v, -, h⟩ := andThen_next h
    cases v with
    | int k => exact .bound x (k + n) (by cases h; rfl)
    | response r => cases h
    | bytes bs => cases h
  | label l => exact .moved _ (by cases h; rfl)
  | goto l =>
    obtain ⟨n, h⟩ := hostGoto_next h
    exact .moved n h
  | ifGoto c l =>
    obtain ⟨b, -, h⟩ := andThen_next h
    cases b with
    | true =>
      obtain ⟨n, h⟩ := hostGoto_next (by simpa using h)
      exact .moved n h
    | false => exact .moved _ (by simpa [eq_comm, State.nextLine] using h)
  | ifStop c =>
    obtain ⟨b, -, h⟩ := andThen_next h
    cases b with
    | true => exact .stopped (by simpa [eq_comm] using h)
    | false => exact .moved _ (by simpa [eq_comm, State.nextLine] using h)
  | stop => exact .stopped (by cases h; rfl)

end Sys2Proof.Machine
end

