-- ==== Sys2Proof/Tests/Slice0.lean ====
section
/-! SUPPORT. Tests: the decoder on words written out from the spec's encodings, one step of each operation on vectors of
95_test_vectors.md, the well-formedness checks, host lines, and for each obligation with hypotheses a state and operands
that meet them (theorems witness_<Obligation>). -/

namespace Sys2Proof.Tests

open Sys2Proof.Machine

/-! ## A small state -/

/-- EPOCH_BASE = 2000 as in 95_test_vectors.md, policy RESOLVE, every chip register 0xEE, a quiet access to come. -/
def base : State where
  epochBase := 2000
  hour12Policy := .RESOLVE
  request := []
  response := none
  chip := Vector.replicate 19 0xEE
  bus := [.quiet]
  accesses := 0
  lastRead := Vector.replicate 19 none
  program := []
  line := 0
  names := []
  phase := .running

/-- The host at the first line of a program. -/
def hostAt (program : List HostLine) : State := { base with program := program }

/-- The response frame of one step with these bytes at the request port. -/
def answerOf (policy : Hour12Policy) (bs : List Byte) : Option (List Byte) :=
  (responseOf (step { base with hour12Policy := policy, request := bs })).map Response.frame

/-! ## Decoding: words of 30_encoding.md R62, R65 -/

/-- FMT_V `00000001 vvvvvvvv vvvvvvvv`, V = -1. -/
theorem test_decode_bcdEnc : decode [0b00000001, 0b11111111, 0b11111111] = .request (.bcdEnc (-1)) [] := by decide

/-- FMT_N `00000010 ttttoooo`, TENS = 10, ONES = 5. -/
theorem test_decode_bcdDec : decode [0b00000010, 0b10100101] = .request (.bcdDec 10 5) [] := by decide

/-- FMT_P7, seven different bytes. -/
theorem test_decode_dtDec : decode [0b00010000, 1, 2, 3, 4, 5, 6, 7, 0xAA] =
    .request (.dtDec ⟨1, 2, 3, 4, 5, 6, 7⟩) [0xAA] := by decide

/-- FMT_CT, year 0x07E9 high byte first. -/
theorem test_decode_dtEnc : decode [0b00010001, 1, 2, 3, 4, 5, 6, 0b00000111, 0b11101001] =
    .request (.dtEnc ⟨1, 2, 3, 4, 5, 6, 2025⟩) [] := by decide

/-- FMT_BM. -/
theorem test_decode_fldGet : decode [0b00100000, 0b00100101, 0b00110000] = .request (.fldGet 0x25 0x30) [] := by decide

/-- FMT_BMV. -/
theorem test_decode_fldSet : decode [0b00100001, 0b10001011, 0b00000001, 0b00000000] =
    .request (.fldSet 0x8B 0x01 0x00) [] := by decide

/-- 30_encoding.md R66: OP 0x12 is illegal, and its frame is one byte. -/
theorem test_decode_illegal : decode [0x12, 0x02, 0x25] = .illegal 0x12 [0x02, 0x25] := by decide

/-- 30_encoding.md R69: 0x11 announces nine bytes; eight are a truncated frame. -/
theorem test_decode_truncated : decode [0x11, 1, 2, 3, 4, 5, 6, 7] = .truncated := by decide

/-- The opcode table's numbering: bit 0 is the least significant bit of the first byte. -/
theorem test_decodeTableWord : decodeTableWord 24 0x2A0001 = some (.bcdEnc 42) ∧
    decodeTableWord 8 0x10 = some (.dtDec ⟨0, 0, 0, 0, 0, 0, 0⟩) ∧ decodeTableWord 8 0x03 = none := by decide

/-- step runs the presented word as its next request, and nothing else is left at the port. -/
theorem test_withFetchWord : (base.withFetchWord 16 0x2502).request = [0x02, 0x25] ∧
    responseOf (step (State.reset.withFetchWord 16 0x2502)) = some (.ok (.value 25)) := by decide

/-! ## Well-formedness: an ill-formed term for each check -/

/-- 30_encoding.md R63: 32768 is above the V port. -/
theorem test_illFormed_above : ¬ Instr.WellFormed (.bcdEnc 32768) := by decide

/-- 30_encoding.md R63: -32769 is below the V port. -/
theorem test_illFormed_below : ¬ Instr.WellFormed (.bcdEnc (-32769)) := by decide

/-! ## One step of each operation (95_test_vectors.md L1, L2) -/

/-- L2 BCD.ENC: 59. -/
theorem test_bcdEnc : answerOf .RESOLVE [0x01, 0x00, 0x3B] = some [0x00, 0x59] := by decide

/-- L2 BCD.ENC: 256, the high byte counts. -/
theorem test_bcdEnc_range : answerOf .RESOLVE [0x01, 0x01, 0x00] = some [0x01, 0xFF] := by decide

/-- L2 BCD.DEC: tens 10. -/
theorem test_bcdDec : answerOf .RESOLVE [0x02, 0xA0] = some [0x00, 0x64] := by decide

/-- L2 BCD.DEC: the maximum. -/
theorem test_bcdDec_max : answerOf .RESOLVE [0x02, 0xFF] = some [0x00, 0xA5] := by decide

/-- L1 item 8: the source's scenario. -/
theorem test_dtDec : answerOf .REJECT [0x10, 0x30, 0x15, 0x14, 0x03, 0x25, 0x89, 0x25] =
    some [0x00, 0x1E, 0x0F, 0x0E, 0x03, 0x19, 0x09, 0x07, 0xE9] := by decide

/-- L2 DT.DEC: 1 PM under RESOLVE, E_MODE12 before the digit check under REJECT, 12 AM under SOURCE. -/
theorem test_dtDec_12hour :
    answerOf .RESOLVE [0x10, 0x00, 0x00, 0x61, 0x01, 0x01, 0x01, 0x00] =
      some [0x00, 0x00, 0x00, 0x0D, 0x01, 0x01, 0x01, 0x07, 0xD0] ∧
    answerOf .REJECT [0x10, 0x00, 0x00, 0x4A, 0x01, 0x01, 0x01, 0x00] = some [0x04, 0x02] ∧
    answerOf .SOURCE [0x10, 0x00, 0x00, 0x52, 0x01, 0x01, 0x01, 0x00] =
      some [0x00, 0x00, 0x00, 0x0C, 0x01, 0x01, 0x01, 0x07, 0xD0] := by decide

/-- L2 DT.ENC: the highest valid time. -/
theorem test_dtEnc : answerOf .RESOLVE [0x11, 0x3B, 0x3B, 0x17, 0x07, 0x1F, 0x0C, 0x08, 0x33] =
    some [0x00, 0x59, 0x59, 0x23, 0x07, 0x31, 0x12, 0x99] := by decide

/-- L2 DT.ENC: year 2100, above the window. -/
theorem test_dtEnc_range : answerOf .RESOLVE [0x11, 0x00, 0x00, 0x00, 0x01, 0x01, 0x01, 0x08, 0x34] =
    some [0x01, 0x06] := by decide

/-- L2 FLD.GET: RS of 0x5C. -/
theorem test_fldGet : answerOf .RESOLVE [0x20, 0x5C, 0x18] = some [0x00, 0x03] := by decide

/-- L2 FLD.GET: a non-contiguous mask. -/
theorem test_fldGet_mask : answerOf .RESOLVE [0x20, 0x12, 0x81] = some [0x05, 0xFF] := by decide

/-- L2 FLD.SET: RS = 0. -/
theorem test_fldSet : answerOf .RESOLVE [0x21, 0x1C, 0x18, 0x00] = some [0x00, 0x04] := by decide

/-- L2 FLD.SET: E_MASK before E_RANGE. -/
theorem test_fldSet_mask : answerOf .RESOLVE [0x21, 0xAA, 0x05, 0x07] = some [0x05, 0xFF] := by decide

/-- L2 illegal OP. -/
theorem test_illegalOp : answerOf .RESOLVE [0xFF] = some [0x06, 0xFF] := by decide

/-! ## Host lines (95_test_vectors.md L3) -/

/-- Lines of P2, P5 and P1 as text. -/
theorem test_lines :
    lineOf "    f  = FLD.GET s, A1F          ; 20 8F 01 -> 00 01" =
      some [.request (some "f") .fldGet [.name "s", .mask .A1F]] ∧
    lineOf "    if STATUS(r) != OK goto done" = some [.ifGoto (.statusNotOk "r") "done"] ∧
    lineOf "    i = i + 1" = some [.add "i" "i" 1] ∧ lineOf "loop:" = some [.label "loop"] ∧
    lineOf "    p = RD 0x00, 7" = some [.rd "p" 0x00 7] ∧ lineOf "    WR 0x00, e" = some [.wr 0x00 [.name "e"]] := by
  decide

/-- 30_encoding.md R72. -/
theorem test_disassemble : disassemble [0x11, 0x1E, 0x0F, 0x0E, 0x03, 0x19, 0x09, 0x07, 0xE9] =
      some "DT.ENC 0x1E, 0x0F, 0x0E, 0x03, 0x19, 0x09, 0x07E9" ∧
    disassemble [0x01, 0xFF, 0xFF] = some "BCD.ENC -1" ∧ disassemble [0x03] = some ".byte 0x03" := by decide

/-- P2: a status byte that carries back BSY, OSF and ST_RSV is written; one that clears OSF is refused (R237). -/
theorem test_protected :
    keepsProtected (base.lastRead.setIfInBounds 0x0F (some 0x8F)) 0x0F 0x8E = true ∧
    keepsProtected (base.lastRead.setIfInBounds 0x0F (some 0x8F)) 0x0F 0x0E = false ∧
    keepsProtected (base.lastRead.setIfInBounds 0x02 (some 0x94)) 0x02 0x14 = false := by decide

/-- A host whose name "e" stands for the DT.ENC result of P1. -/
def encoded (a : HostLine) : State :=
  { hostAt [a] with names := [("e", .response (.ok (.registers ⟨0x30, 0x15, 0x14, 0x03, 0x25, 0x09, 0x25⟩)))] }

/-- The chip registers after one step. -/
def chipAfterStep (s : State) : Option (List Byte) :=
  match step s with
  | .next t => some t.chip.toList
  | .fault _ => none
  | .refused _ => none

/-- P1: `WR 0x00, e` stores the seven bytes though nothing was read (41_datetime.md R141). -/
theorem test_dateBlock : (chipAfterStep (encoded (.wr 0x00 [.name "e"]))).map (List.take 8) =
    some [0x30, 0x15, 0x14, 0x03, 0x25, 0x09, 0x25, 0xEE] := by decide

/-- 20_memory.md R50: setting CONV makes BSY 1; a control byte without it does not. -/
theorem test_conversion :
    (chipAfterStep { hostAt [.wr 0x0E [.lit 0x3C]] with chip := Vector.replicate 19 0 }).map (List.drop 0x0E) =
      some [0x3C, 0x04, 0, 0, 0] ∧
    (chipAfterStep { hostAt [.wr 0x0E [.lit 0x1C]] with chip := Vector.replicate 19 0 }).map (List.drop 0x0E) =
      some [0x1C, 0, 0, 0, 0] := by decide

/-- A transfer stores byte k at address + k. -/
theorem test_chipWrite : (chipWrite base.chip 0x11 [1, 2]).toList.drop 0x10 = [0xEE, 1, 2] ∧
    chipRead (chipWrite base.chip 0x05 [1, 2]) 0x04 4 = [0xEE, 1, 2, 0xEE] := by decide

/-! ## Witnesses: the hypotheses of the obligations can be met -/

/-- The highest valid time of L2. -/
def topTime : CalendarTime := ⟨59, 59, 23, 7, 31, 12, 2099⟩

/-- Its register block. -/
def topBlock : PackedDate := ⟨0x59, 0x59, 0x23, 0x07, 0x31, 0x12, 0x99⟩

/-- A block whose first failing field is the minutes. -/
def badBlock : PackedDate := ⟨0x00, 0x60, 0x72, 0x00, 0x00, 0x00, 0xAA⟩

theorem witness_DecodeOfEncode : Instr.WellFormed (.bcdEnc (-32768)) ∧ Instr.WellFormed (.bcdEnc 32767) := by decide

theorem witness_EncodeOfDecode : decode [0x01, 0x80, 0x00, 0x07] = .request (.bcdEnc (-32768)) [0x07] := by decide

theorem witness_LengthFixedByOp : decode [0x21, 1, 2] = .truncated ∧
    decode [0x21, 1, 2, 3, 4] = .request (.fldSet 1 2 3) [4] ∧ decode [0x22, 4] = .illegal 0x22 [4] ∧
    ({ base with request := [0x10, 1, 2, 3, 4, 5, 6] } : State).request = (0x10 : Byte) :: [1, 2, 3, 4, 5, 6] ∧
    ([1, 2, 3, 4, 5, 6] : List Byte).length + 1 < frameLength 0x10 := by decide

theorem witness_WordFieldsOfFrames : 6 < 7 ∧ wordField (frameWord [0x10, 1, 2, 3, 4, 5, 6, 7]) 7 0 = 7 := by decide

theorem witness_StepRunsTheDecodedRequest :
    decode ({ base with request := [0x02, 0x99, 0x00] } : State).request = .request (.bcdDec 9 9) [0x00] := by decide

theorem witness_UndefinedOpAnswersEOp :
    (0x00 : Byte) ∉ ([0x01, 0x02, 0x10, 0x11, 0x20, 0x21] : List Byte) ∧
    (0x22 : Byte) ∉ ([0x01, 0x02, 0x10, 0x11, 0x20, 0x21] : List Byte) ∧
    (0xFF : Byte) ∉ ([0x01, 0x02, 0x10, 0x11, 0x20, 0x21] : List Byte) ∧
    ({ base with request := [0xFF, 0x02] } : State).request = (0xFF : Byte) :: [0x02] := by decide

theorem witness_ResponsesInOrderPresented :
    (∀ i ∈ [Instr.bcdDec 2 5, .bcdEnc 100], i.WellFormed) ∧
    ({ base with request := [0x02, 0x25, 0x01, 0x00, 0x64] } : State).request =
      [Instr.bcdDec 2 5, .bcdEnc 100].flatMap encode := by decide

theorem witness_DisassemblyAssembles : Instr.WellFormed (.bcdEnc (-32768)) ∧
    (0x03 : Byte) ∉ ([0x01, 0x02, 0x10, 0x11, 0x20, 0x21] : List Byte) := by decide

theorem witness_PseudoInstructionsExpand : contiguous 0x80 = true ∧ contiguous 0xFF = true ∧ contiguous 0x00 = false ∧
    contiguous 0x81 = false := by decide

theorem witness_BcdEncPacksDigits : ((0 : Int) ≤ 0 ∧ (0 : Int) ≤ 99) ∧ ((0 : Int) ≤ 99 ∧ (99 : Int) ≤ 99) ∧
    ((-1 : Int) < 0 ∨ (99 : Int) < -1) ∧ ((100 : Int) < 0 ∨ (99 : Int) < 100) := by decide

theorem witness_BcdRoundTrip : 99 ≤ 99 ∧ ((100 : Int) ≥ 100 ∨ (100 : Int) < 0) ∧ ((-1 : Int) ≥ 100 ∨ (-1 : Int) < 0) := by
  decide

theorem witness_BcdEncImage : responseOf (exec (.bcdEnc 99) base) = some (.ok (.byte 0x99)) := by decide

theorem witness_BcdInverseOnDigits : (bits 0x99 7 4 ≤ 9 ∧ bits 0x99 3 0 ≤ 9) ∧ bits 0xA9 7 4 > 9 ∧ bits 0x9A 3 0 > 9 := by
  decide

theorem witness_NarrowTensFieldsFit : 19 ≤ 10 * 2 ^ 1 - 1 ∧ 39 ≤ 10 * 2 ^ 2 - 1 ∧ 79 ≤ 10 * 2 ^ 3 - 1 ∧ 79 ≤ 99 ∧
    99 ≤ 10 * 2 ^ 4 - 1 ∧ 99 ≤ 99 := by decide

theorem witness_HoursDecode : bits 0x23 6 6 = 0 ∧ bits 0x72 6 6 = 1 := by decide

theorem witness_DtDecDecodesInRegisterOrder :
    (decSec topBlock.seconds = .ok 59 ∧ decMin topBlock.minutes = .ok 59 ∧
      decHour base.hour12Policy topBlock.hours = .ok 23 ∧ decWday topBlock.weekday = .ok 7 ∧
      decDay topBlock.date = .ok 31 ∧ decMonth topBlock.monthCentury = .ok 12 ∧
      decYear base.epochBase topBlock.year = .ok 2099) ∧
    [decSec badBlock.seconds, decMin badBlock.minutes, decHour .REJECT badBlock.hours, decWday badBlock.weekday,
      decDay badBlock.date, decMonth badBlock.monthCentury, decYear 2000 badBlock.year].findSome?
      (fun r => match r with | .error e => some e | .ok _ => none) = some ⟨.E_FIELD, 1⟩ ∧
    bits topBlock.hours 6 6 = 0 ∧ ({ base with hour12Policy := .REJECT } : State).epochBase = base.epochBase := by decide

theorem witness_DtDecReads24HourBlock :
    bits topBlock.seconds 6 4 ≤ 5 ∧ bits topBlock.seconds 3 0 ≤ 9 ∧ bits topBlock.minutes 6 4 ≤ 5 ∧
    bits topBlock.minutes 3 0 ≤ 9 ∧ bits topBlock.hours 6 6 = 0 ∧ bits topBlock.hours 3 0 ≤ 9 ∧
    bits topBlock.hours 5 4 * 10 + bits topBlock.hours 3 0 ≤ 23 ∧ 1 ≤ bits topBlock.weekday 2 0 ∧
    bits topBlock.date 3 0 ≤ 9 ∧ 1 ≤ bits topBlock.date 5 4 * 10 + bits topBlock.date 3 0 ∧
    bits topBlock.date 5 4 * 10 + bits topBlock.date 3 0 ≤ 31 ∧ bits topBlock.monthCentury 3 0 ≤ 9 ∧
    1 ≤ bits topBlock.monthCentury 4 4 * 10 + bits topBlock.monthCentury 3 0 ∧
    bits topBlock.monthCentury 4 4 * 10 + bits topBlock.monthCentury 3 0 ≤ 12 ∧ bits topBlock.year 7 4 ≤ 9 ∧
    bits topBlock.year 3 0 ≤ 9 := by decide

theorem witness_DtDecResolves12Hour :
    base.hour12Policy = .RESOLVE ∧ bits 0x72 6 6 = 1 ∧ bits 0x72 3 0 ≤ 9 ∧ 1 ≤ bits 0x72 4 4 * 10 + bits 0x72 3 0 ∧
    bits 0x72 4 4 * 10 + bits 0x72 3 0 ≤ 12 ∧
    exec (.dtDec { topBlock with hours := 0 }) base =
      .next (base.setResponse (some (.ok (.calendar { topTime with hour := 0 })))) :=
  ⟨rfl, by decide, by decide, by decide, by decide, rfl⟩

theorem witness_DecodedCalendarInRange :
    responseOf (exec (.dtDec topBlock) base) = some (.ok (.calendar topTime)) ∧
    responseOf (exec (.dtDec { topBlock with hours := 0x79 }) { base with hour12Policy := .SOURCE }) =
      some (.ok (.calendar { topTime with hour := 19 })) ∧ bits 0x79 6 6 = 1 := by decide

theorem witness_UnusedBitsIgnored : agreeOnUsedBits ⟨0x80, 0x80, 0x80, 0xF9, 0xC1, 0xE1, 0x00⟩ ⟨0, 0, 0, 1, 1, 1, 0⟩ := by
  unfold agreeOnUsedBits agreeOn
  decide

/-- The list of checks in Obligations.DtEncEncodesOrRefuses. -/
def checks (epoch : EpochBase) (t : CalendarTime) : List Bool :=
  [decide (t.second.toNat ≤ 59), decide (t.minute.toNat ≤ 59), decide (t.hour.toNat ≤ 23),
    decide (1 ≤ t.weekday.toNat ∧ t.weekday.toNat ≤ 7), decide (1 ≤ t.day.toNat ∧ t.day.toNat ≤ 31),
    decide (1 ≤ t.month.toNat ∧ t.month.toNat ≤ 12),
    decide (epoch.val ≤ t.year.toNat ∧ t.year.toNat ≤ epoch.val + 99)]

theorem witness_DtEncEncodesOrRefuses : (checks 2000 topTime).all id = true ∧
    [⟨60, 59, 23, 7, 31, 12, 2099⟩, ⟨59, 60, 23, 7, 31, 12, 2099⟩, ⟨59, 59, 24, 7, 31, 12, 2099⟩,
      ⟨59, 59, 23, 8, 31, 12, 2099⟩, ⟨59, 59, 23, 7, 32, 12, 2099⟩, ⟨59, 59, 23, 7, 31, 13, 2099⟩,
      ⟨59, 59, 23, 7, 31, 12, 2100⟩].map (fun t => (checks 2000 t).findIdx? fun b => !b) =
      [some 0, some 1, some 2, some 3, some 4, some 5, some 6] := by decide

/-- DT.ENC accepts the highest valid time (for DateRoundTrip: the epoch bases are equal). -/
theorem witness_DateRoundTrip : responseOf (exec (.dtEnc topTime) base) = some (.ok (.registers topBlock)) ∧
    ({ base with hour12Policy := .REJECT } : State).epochBase = base.epochBase := by decide

theorem witness_DtEncClearsUnusedBits :
    responseOf (exec (.dtEnc ⟨0, 0, 0, 1, 1, 1, 2000⟩) base) = some (.ok (.registers ⟨0, 0, 0, 1, 1, 1, 0⟩)) := by decide

theorem witness_Bit20Regression : calendarInRange base.epochBase { topTime with hour := 20 } = true ∧
    calendarInRange base.epochBase topTime = true ∧ 20 ≤ (20 : Byte).toNat ∧ 20 ≤ topTime.hour.toNat := by decide

theorem witness_EncodeAfterDecode :
    responseOf (exec (.dtDec { topBlock with hours := 0xA3 }) base) = some (.ok (.calendar topTime)) ∧
    bits 0xA3 6 6 = 0 ∧
    responseOf (exec (.dtDec { topBlock with hours := 0x71 }) base) = some (.ok (.calendar topTime)) ∧
    bits 0x71 6 6 = 1 ∧ base.hour12Policy = .RESOLVE := by decide

theorem witness_FldGetReadsField : (1 ≤ 8 ∧ 0 + 8 ≤ 8) ∧ (1 ≤ 1 ∧ 7 + 1 ≤ 8) ∧
    ∀ w ∈ List.range 9, ∀ l ∈ List.range 8, 1 ≤ w → l + w ≤ 8 → (0x81 : Byte) ≠ runMask w l ∧ (0x00 : Byte) ≠ runMask w l := by
  decide

theorem witness_FldSetWritesField : (1 ≤ 2 ∧ 3 + 2 ≤ 8 ∧ (3 : Byte).toNat < 2 ^ 2) ∧
    (1 ≤ 2 ∧ 6 + 2 ≤ 8 ∧ 2 ^ 2 ≤ (4 : Byte).toNat) ∧
    ∀ w ∈ List.range 9, ∀ l ∈ List.range 8, 1 ≤ w → l + w ≤ 8 → (0x05 : Byte) ≠ runMask w l := by decide

theorem witness_FieldIsolation : contiguous 0x01 = true ∧ (1 : Byte).toNat < 2 ^ popcount 0x01 ∧
    contiguous 0xFE = true ∧ (0x01 : Byte) &&& 0xFE = 0 := by decide

theorem witness_FieldLaws : (exec (.fldGet 0x25 0x0F) base = exec (.fldGet 0x25 0x0F) base ∧
      exec (.fldGet 0x25 (~~~0x0F)) base = exec (.fldGet 0x25 (~~~0x0F)) base) ∧ contiguous 0x30 = true ∧ (3 : Byte).toNat < 2 ^ popcount 0x30 ∧
    (0 : Byte).toNat < 2 ^ popcount 0x30 ∧ contiguous 0x0F = true ∧ (0x30 : Byte) &&& 0x0F = 0 ∧
    (15 : Byte).toNat < 2 ^ popcount 0x0F ∧ contiguous (~~~(0x0F : Byte)) = true :=
  ⟨⟨rfl, rfl⟩, by decide⟩

theorem witness_AccessRightsNotEnforced :
    (1 : Byte).toNat < 2 ^ (ChipField.BSY.row.hi - ChipField.BSY.row.lo + 1) ∧
    (255 : Byte).toNat < 2 ^ (ChipField.AGING.row.hi - ChipField.AGING.row.lo + 1) := by decide

theorem witness_ChangingAFlagKeepsTheOthers : StatusFlag.alarm1Triggered ≠ .alarm2Triggered ∧
    (1 : Byte).toNat < 2 ^ popcount StatusFlag.alarm1Triggered.field.mask ∧
    ControlFlag.squareWaveRate ≠ .forceTemperatureConversion ∧
    (3 : Byte).toNat < 2 ^ popcount ControlFlag.squareWaveRate.field.mask := by decide

theorem witness_FieldTableIsAPartition : ChipField.RS2 ≠ .RS1 ∧ ChipField.RS2.row.reg = ChipField.RS1.row.reg ∧
    ChipField.RS ≠ .CONV ∧ ChipField.RS.row.reg = ChipField.CONV.row.reg := by decide

theorem witness_ResponseDependsOnRequestOnly :
    base.epochBase = ({ base with request := [0xFF] } : State).epochBase ∧
    base.hour12Policy = ({ base with request := [0xFF] } : State).hour12Policy := by decide

theorem witness_ResponseFrames : responseOf (exec (.bcdEnc 42) base) = some (.ok (.byte 0x42)) ∧
    responseOf (exec (.fldGet 0 0) base) = some (.error ⟨.E_MASK, 0xFF⟩) ∧
    (0xFF : Byte) ∉ ([0x01, 0x02, 0x10, 0x11, 0x20, 0x21] : List Byte) ∧
    ({ base with request := [0xFF] } : State).request = (0xFF : Byte) :: [] := by decide

theorem witness_ErrorsOfEachOperation :
    responseOf (exec (.bcdEnc 100) base) = some (.error ⟨.E_RANGE, 0xFF⟩) ∧
    responseOf (exec (.dtDec ⟨0x5A, 0, 0, 1, 1, 1, 0⟩) base) = some (.error ⟨.E_DIGIT, 0⟩) ∧
    responseOf (exec (.dtEnc ⟨60, 0, 0, 1, 1, 1, 2000⟩) base) = some (.error ⟨.E_RANGE, 0⟩) ∧
    responseOf (exec (.fldGet 0 5) base) = some (.error ⟨.E_MASK, 0xFF⟩) ∧
    responseOf (exec (.fldSet 0 1 2) base) = some (.error ⟨.E_RANGE, 0xFF⟩) ∧
    responseOf (exec (.fldSet 0 5 7) base) = some (.error ⟨.E_MASK, 0xFF⟩) := by decide

/-- A host whose name "e" stands for an error response (P7). -/
def errorName (a : HostLine) : State := { hostAt [a] with names := [("e", .response (.error ⟨.E_RANGE, 6⟩))] }

/-- Operands with an operand that has no value after one that has. -/
def absentAfterOne (o : Operand) : List Operand := List.append [.lit 1] (o :: [])

/-- The host is at any line that `errorName` gives it. -/
theorem errorName_atLine (a : HostLine) : (errorName a).atLine a := ⟨rfl, rfl, rfl⟩

theorem witness_AbsentResultFaults : (errorName .stop).names.lookup "e" = some (.response (.error ⟨.E_RANGE, 6⟩)) ∧
    operandValues (errorName .stop).names [.lit 1] = .next [1] ∧
    (∀ o, absentAfterOne o = [.lit 1] ++ o :: []) ∧
    (∀ o, (errorName (.request none .fldGet (absentAfterOne o))).atLine (.request none .fldGet (absentAfterOne o))) ∧
    (∀ o, (errorName (.wr 0x01 (absentAfterOne o))).atLine (.wr 0x01 (absentAfterOne o))) ∧
    (errorName (.wr 0x00 [.name "e"])).atLine (.wr 0x00 [.name "e"]) ∧
    (∀ c, (errorName (.ifGoto c "done")).atLine (.ifGoto c "done") ∧ (errorName (.ifStop c)).atLine (.ifStop c)) :=
  ⟨rfl, rfl, fun _ => rfl, fun _ => errorName_atLine _, fun _ => errorName_atLine _, errorName_atLine _,
    fun _ => ⟨errorName_atLine _, errorName_atLine _⟩⟩

theorem witness_ParametersNeverChange : ∃ t, step (hostAt [.assign "i" 97]) = .next t := ⟨_, rfl⟩

theorem witness_ResetState : 18 < 19 ∧ Instr.WellFormed (.bcdEnc 32767) := by decide

theorem witness_StepKeepsLegal : (hostAt [.assign "i" 97]).legal = true ∧ ∃ t, step (hostAt [.assign "i" 97]) = .next t :=
  ⟨by decide, _, rfl⟩

theorem witness_StepKeepsTurns : (base.present (some "r") (.bcdEnc 97)).inTurn ∧
    ∃ t, step (base.present (some "r") (.bcdEnc 97)) = .next t :=
  ⟨.inr ⟨.bcdEnc 97, some "r", by decide, rfl, rfl, rfl⟩, _, rfl⟩

theorem witness_OnlyWritesChangeTheChip :
    ∃ t, (hostAt [.wr 0x06 [.lit 0x97]]).access = .quiet ∧ step (hostAt [.wr 0x06 [.lit 0x97]]) = .next t ∧
      t.chip ≠ (hostAt [.wr 0x06 [.lit 0x97]]).chip :=
  ⟨_, rfl, rfl, by decide⟩

theorem witness_RequestLineRoundTrip :
    (hostAt [.request (some "r") .bcdEnc [.lit 97]]).atLine (.request (some "r") .bcdEnc [.lit 97]) ∧
    (hostAt [.request none .bcdEnc [.lit 97]]).atLine (.request none .bcdEnc [.lit 97]) ∧
    operandValues [] [.lit 97] = .next [97] ∧ assemble .bcdEnc [97] = .next (.bcdEnc 97) ∧
    responseOf (exec (.bcdEnc 97) (hostAt [.request (some "r") .bcdEnc [.lit 97]])) = some (.ok (.byte 0x97)) ∧
    responseOf (exec (.bcdEnc 97) (hostAt [.request none .bcdEnc [.lit 97]])) = some (.ok (.byte 0x97)) :=
  ⟨⟨rfl, rfl, rfl⟩, ⟨rfl, rfl, rfl⟩, rfl, rfl, by decide, by decide⟩

/-- Names of every kind. -/
def someNames : Names :=
  [("b", .response (.ok (.byte 0x42))), ("c", .response (.ok (.calendar topTime))),
    ("e", .response (.error ⟨.E_RANGE, 6⟩)), ("i", .int (-1)), ("p", .bytes [0x8F, 0x01]),
    ("r", .response (.ok (.registers topBlock))), ("v", .response (.ok (.value 0xFF)))]

theorem witness_OperandsAndConditionsRead : someNames.lookup "b" = some (.response (.ok (.byte 0x42))) ∧
    someNames.lookup "v" = some (.response (.ok (.value 0xFF))) ∧ someNames.lookup "i" = some (.int (-1)) ∧
    someNames.lookup "r" = some (.response (.ok (.registers topBlock))) ∧
    someNames.lookup "p" = some (.bytes [0x8F, 0x01]) ∧ ([0x8F, 0x01] : List Byte)[1]? = some 0x01 ∧
    someNames.lookup "c" = some (.response (.ok (.calendar topTime))) ∧
    someNames.lookup "e" = some (.response (.error ⟨.E_RANGE, 6⟩)) ∧
    operandValues someNames [.name "b"] = .next [0x42] ∧ operandValues someNames [.name "i"] = .next [-1] :=
  ⟨by decide, by decide, by decide, by decide, by decide, by decide, by decide, by decide, rfl, rfl⟩

theorem witness_ReadBringsRegisters : (hostAt [.rd "p" 0x0C 7]).atLine (.rd "p" 0x0C 7) ∧
    (0x0C : Byte).toNat + 7 ≤ 0x13 ∧ (hostAt [.rd "p" 0x0C 7]).access.bus = .acknowledged :=
  ⟨⟨rfl, rfl, rfl⟩, by decide, rfl⟩

theorem witness_FailedReadBringsAnyBytes : (hostAt [.rd "p" 0x12 1]).atLine (.rd "p" 0x12 ([0x00] : List Byte).length) ∧
    (0x12 : Byte).toNat + ([0x00] : List Byte).length ≤ 0x13 :=
  ⟨⟨rfl, rfl, rfl⟩, by decide⟩

/-- P2 at its WR: the host has read 0x8F of the status register, and "s2" stands for a byte that FLD.CLR gave. -/
def statusHost (a : HostLine) (s2 : Byte) : State :=
  { hostAt [a] with
    lastRead := (Vector.replicate 19 none).setIfInBounds 0x0F (some 0x8F)
    names := [("s2", .response (.ok (.byte s2)))] }

/-- A write on a failed bus, of which one byte arrives. -/
def failing (s : State) : State := s.setBus [⟨[], .failed [] 1, []⟩]

theorem witness_WriteStoresRegisters :
    ((hostAt [.wr 0x0D [.lit 0x43, .lit 0x20]]).atLine (.wr 0x0D [.lit 0x43, .lit 0x20]) ∧
    operandValues [] [.lit 0x43, .lit 0x20] = .next (([0x43, 0x20] : List Byte).map fun b => (b.toNat : Int)) ∧
    (0x0D : Byte).toNat + ([0x43, 0x20] : List Byte).length ≤ 0x13 ∧
    dateBlockOf [] 0x0D [.lit 0x43, .lit 0x20] = none ∧
    allKeepProtected base.lastRead (0x0D : Byte).toNat [0x43, 0x20] = true ∧
    (hostAt [.wr 0x0D [.lit 0x43, .lit 0x20]]).access = .quiet) ∧
    ((statusHost (.wr 0x0F [.name "s2"]) 0x8E).atLine (.wr 0x0F [.name "s2"]) ∧
    operandValues (statusHost .stop 0x8E).names [.name "s2"] = .next (([0x8E] : List Byte).map fun b => (b.toNat : Int)) ∧
    dateBlockOf (statusHost .stop 0x8E).names 0x0F [.name "s2"] = none ∧
    allKeepProtected (statusHost .stop 0x8E).lastRead (0x0F : Byte).toNat [0x8E] = true ∧
    (statusHost (.wr 0x0F [.name "s2"]) 0x8E).access.bus = .acknowledged ∧
    (failing (statusHost (.wr 0x0F [.name "s2"]) 0x8E)).access.bus = .failed [] 1) ∧
    (encoded (.wr 0x00 [.name "e"])).atLine (.wr 0x00 [.name "e"]) ∧ (encoded (.wr 0x00 [.name "e"])).access = .quiet ∧
    (encoded (.wr 0x00 [.name "e"])).names.lookup "e" =
      some (.response (.ok (.registers ⟨0x30, 0x15, 0x14, 0x03, 0x25, 0x09, 0x25⟩))) ∧
    (0x00 : Byte).toNat + (⟨0x30, 0x15, 0x14, 0x03, 0x25, 0x09, 0x25⟩ : PackedDate).bytes.length ≤ 0x13 :=
  ⟨⟨⟨rfl, rfl, rfl⟩, rfl, by decide, rfl, by decide, rfl⟩, ⟨⟨rfl, rfl, rfl⟩, rfl, by decide, by decide, rfl, rfl⟩,
    ⟨rfl, rfl, rfl⟩, rfl, by decide, by decide⟩

theorem witness_TransferBeyondMapRefused : (hostAt [.rd "p" 0x12 2]).atLine (.rd "p" 0x12 2) ∧
    0x12 < (0x12 : Byte).toNat + 2 - 1 ∧
    (statusHost (.wr 0x13 [.name "s2"]) 0x8E).atLine (.wr 0x13 [.name "s2"]) ∧
    operandValues (statusHost .stop 0x8E).names [.name "s2"] = .next (([0x8E] : List Byte).map fun b => (b.toNat : Int)) ∧
    0x12 < (0x13 : Byte).toNat + ([0x8E] : List Byte).length - 1 ∧
    (encoded (.wr 0x0D [.name "e"])).atLine (.wr 0x0D [.name "e"]) ∧
    operandValues (encoded .stop).names [.name "e"] =
      .next (([0x30, 0x15, 0x14, 0x03, 0x25, 0x09, 0x25] : List Byte).map fun b => (b.toNat : Int)) ∧
    0x12 < (0x0D : Byte).toNat + ([0x30, 0x15, 0x14, 0x03, 0x25, 0x09, 0x25] : List Byte).length - 1 :=
  ⟨⟨rfl, rfl, rfl⟩, by decide, ⟨rfl, rfl, rfl⟩, rfl, by decide, ⟨rfl, rfl, rfl⟩, rfl, by decide⟩

theorem witness_StatusWriteKeepsProtectedBits :
    ((statusHost (.wr 0x0F [.name "s2"]) 0x8E).atLine (.wr 0x0F [.name "s2"]) ∧
    operandValues (statusHost .stop 0x8E).names [.name "s2"] = .next [((0x8E : Byte).toNat : Int)] ∧
    (statusHost (.wr 0x0F [.name "s2"]) 0x8E).access = .quiet ∧
    (statusHost .stop 0x8E).lastRead[0x0F]? = some (some 0x8F) ∧ (0x8F : Byte) &&& 0xF4 = 0x8E &&& 0xF4) ∧
    ((statusHost (.wr 0x0F [.name "s2"]) 0x8B).atLine (.wr 0x0F [.name "s2"]) ∧
    operandValues (statusHost .stop 0x8B).names [.name "s2"] = .next [((0x8B : Byte).toNat : Int)] ∧
    (0x8F : Byte) &&& 0xF4 ≠ 0x8B &&& 0xF4) ∧
    ((statusHost (.wr 0x0E [.lit 0x1C, .name "s2"]) 0x8B).atLine (.wr 0x0E [.lit 0x1C, .name "s2"]) ∧
    operandValues (statusHost .stop 0x8B).names [.lit 0x1C, .name "s2"] =
      .next (([0x1C, 0x8B] : List Byte).map fun b => (b.toNat : Int)) ∧
    dateBlockOf (statusHost .stop 0x8B).names 0x0E [.lit 0x1C, .name "s2"] = none ∧
    (0x0E : Byte).toNat + ([0x1C, 0x8B] : List Byte).length ≤ 0x13 ∧ ChipField.BSY.isProtected = true ∧
    ([0x1C, 0x8B] : List Byte)[1]? = some 0x8B ∧ ChipField.BSY.row.reg.address = (0x0E : Byte).toNat + 1 ∧
    (0x8F : Byte) &&& ChipField.BSY.mask ≠ 0x8B &&& ChipField.BSY.mask) ∧
    ChipField.HR_RSV.isProtected = true ∧ base.lastRead[ChipField.HR_RSV.row.reg.address]? = some none :=
  ⟨⟨⟨rfl, rfl, rfl⟩, rfl, rfl, by decide, by decide⟩, ⟨⟨rfl, rfl, rfl⟩, rfl, by decide⟩,
    ⟨⟨rfl, rfl, rfl⟩, rfl, rfl, by decide, rfl, rfl, by decide, by decide⟩, rfl, by decide⟩

/-- A host that compares its integer and may go to a label. -/
def comparing (n : Int) : State :=
  { hostAt [.ifGoto (.eq "i" 1) "l", .label "l"] with names := [("i", .int n)] }

theorem witness_GotoContinuesAtLabel :
    (hostAt [.goto "l", .label "l"]).atLine (.goto "l") ∧ HostLine.label "l" ∈ (hostAt [.goto "l", .label "l"]).program ∧
    (hostAt [.goto "l"]).atLine (.goto "l") ∧ HostLine.label "l" ∉ (hostAt [.goto "l"]).program ∧
    (comparing 1).atLine (.ifGoto (.eq "i" 1) "l") ∧ HostLine.label "l" ∈ (comparing 1).program ∧
    (Cond.eq "i" 1).holds (comparing 1).names = .next true ∧
    (comparing 2).atLine (.ifGoto (.eq "i" 1) "l") ∧ (Cond.eq "i" 1).holds (comparing 2).names = .next false ∧
    (hostAt [.label "l"]).atLine (.label "l") ∧ (hostAt [.stop]).atLine .stop ∧
    ({ hostAt [.ifStop (.eq "i" 1)] with names := [("i", .int 1)] } : State).atLine (.ifStop (.eq "i" 1)) ∧
    ((hostAt []).request = [] ∧ (hostAt []).phase = .running ∧ (hostAt []).program.length ≤ (hostAt []).line) ∧
    (hostAt []).finished ∧ ({ base with phase := .stopped } : State).finished :=
  ⟨⟨rfl, rfl, rfl⟩, by decide, ⟨rfl, rfl, rfl⟩, by decide, ⟨rfl, rfl, rfl⟩, by decide, rfl, ⟨rfl, rfl, rfl⟩, rfl,
    ⟨rfl, rfl, rfl⟩, ⟨rfl, rfl, rfl⟩, ⟨rfl, rfl, rfl⟩, ⟨rfl, rfl, by decide⟩, ⟨rfl, .inr ⟨rfl, by decide⟩⟩, ⟨rfl, .inl rfl⟩⟩

/-- The label of a `goto` taken by a condition may be missing: GotoContinuesAtLabel's refusal. -/
theorem witness_GotoContinuesAtLabel_missing :
    ({ hostAt [.ifGoto (.eq "i" 1) "l"] with names := [("i", .int 1)] } : State).atLine (.ifGoto (.eq "i" 1) "l") ∧
    (Cond.eq "i" 1).holds [("i", .int 1)] = .next true ∧
    HostLine.label "l" ∉ (hostAt [.ifGoto (.eq "i" 1) "l"]).program :=
  ⟨⟨rfl, rfl, rfl⟩, rfl, by decide⟩

theorem witness_HostIntegersAssigned : (hostAt [.assign "i" 97]).atLine (.assign "i" 97) ∧
    ({ hostAt [.add "i" "i" 1] with names := [("i", .int 97)] } : State).atLine (.add "i" "i" 1) ∧
    ({ hostAt [.add "i" "i" 1] with names := [("i", .int 97)] } : State).names.lookup "i" = some (.int 97) :=
  ⟨⟨rfl, rfl, rfl⟩, ⟨rfl, rfl, rfl⟩, by decide⟩

end Sys2Proof.Tests
end

section
/-! Proofs: what `step` and `exec` do, said once (10_state.md R20, R31, 20_memory.md R52). -/

namespace Sys2Proof.Machine

/-! ### What exec answers -/

/-- What an operation computes, as a function of EPOCH_BASE, HOUR12_POLICY and the request (10_state.md R31). -/
def execResult (epoch : EpochBase) (policy : Hour12Policy) : Instr → Except CodecError Result
  | .bcdEnc v => (bcdEnc v).map .byte
  | .bcdDec t o => .ok (.value (bcdDec t o))
  | .dtDec p => (dtDec epoch policy p).map .calendar
  | .dtEnc t => (dtEnc epoch t).map .registers
  | .fldGet b m => (fldGet b m).map .value
  | .fldSet b m v => (fldSet b m v).map .byte

/-- The response that carries a result or an error (60_exceptions.md R200). -/
def responseFrom : Except CodecError Result → Response
  | .ok v => .ok v
  | .error e => .error e

/-- The response of a request (10_state.md R31). -/
def execResponse (epoch : EpochBase) (policy : Hour12Policy) (i : Instr) : Response :=
  responseFrom (execResult epoch policy i)

theorem answer_eq_respond_responseFrom (s : State) (r : Except CodecError Result) :
    s.answer r = s.respond (responseFrom r) := by
  cases r <;> rfl

/-- Every operation completes by giving its response. -/
theorem exec_eq_respond (i : Instr) (s : State) :
    exec i s = .next (s.respond (execResponse s.epochBase s.hour12Policy i)) := by
  cases i <;> exact congrArg Host.Outcome.next (answer_eq_respond_responseFrom s _)

@[simp] theorem responseOf_exec (i : Instr) (s : State) :
    responseOf (exec i s) = some (execResponse s.epochBase s.hour12Policy i) := by
  rw [exec_eq_respond]
  rfl

/-! ### The decoder at the request port -/

/-- A frame of a defined operation is never read as illegal: only an undefined OP is (30_encoding.md R66, R68). -/
theorem decode_illegal {bs : List Byte} {op : Byte} {rest : List Byte} (h : decode bs = .illegal op rest) :
    bs = op :: rest ∧ opcodeOf op = none := by
  cases bs with
  | nil => cases h
  | cons b bs =>
    rw [decode] at h
    split at h
    case h_1 => unfold decodeV at h; split at h <;> cases h
    case h_2 => unfold decodeN at h; split at h <;> cases h
    case h_3 => unfold decodeP7 at h; split at h <;> cases h
    case h_4 => unfold decodeCT at h; split at h <;> cases h
    case h_5 => unfold decodeBM at h; split at h <;> cases h
    case h_6 => unfold decodeBMV at h; split at h <;> cases h
    case h_7 hop => cases h; exact ⟨rfl, hop⟩

/-- V comes back from its two bytes (30_encoding.md R64). -/
theorem signedV_of_vInPort {v : Int} (h : vInPort v = true) :
    signedV (highByte (BitVec.ofInt 16 v)) (lowByte (BitVec.ofInt 16 v)) = v := by
  obtain ⟨hlo, hhi⟩ : -32768 ≤ v ∧ v ≤ 32767 := by simpa [vInPort] using h
  rw [signedV, halfOf_high_low, BitVec.toInt_ofInt]
  exact Int.bmod_eq_of_le (by norm_num; omega) (by norm_num; omega)

/-- The frame of a well-formed instruction decodes to it, whatever bytes follow (30_encoding.md R60 to R65). -/
theorem decode_encode_append {i : Instr} (h : i.WellFormed) (rest : List Byte) :
    decode (encode i ++ rest) = .request i rest := by
  cases i with
  | bcdEnc v => exact congrArg (fun u => Fetched.request (.bcdEnc u) rest) (signedV_of_vInPort h)
  | bcdDec t o =>
    show Fetched.request (.bcdDec (tensOf (t ++ o)) (onesOf (t ++ o))) rest = _
    rw [tensOf_append, onesOf_append]
  | dtDec p => rfl
  | dtEnc t =>
    show Fetched.request (.dtEnc { t with year := halfOf (highByte t.year) (lowByte t.year) }) rest = _
    rw [halfOf_high_low]
  | fldGet b m => rfl
  | fldSet b m v => rfl

/-! ### What a step does -/

/-- 20_memory.md R52: at a well-formed frame the step is exec of the decoded instruction. -/
theorem step_of_decoded {s : State} {i : Instr} {rest : List Byte} (h : decode s.request = .request i rest) :
    step s = exec i (s.setRequest rest) := by
  have hne : s.request ≠ [] := by
    intro hnil
    rw [hnil] at h
    cases h
  rw [step_of_request hne, blockStep, h]

/-- Everything the block can do when it continues. -/
theorem blockStep_next {s t : State} (h : blockStep s = .next t) :
    (∃ i rest, decode s.request = .request i rest ∧
      t = (s.setRequest rest).respond (execResponse s.epochBase s.hour12Policy i)) ∨
    (∃ op rest, decode s.request = .illegal op rest ∧
      t = (s.setRequest rest).respond (.error (illegalOpError op))) := by
  unfold blockStep at h
  split at h
  case h_1 i rest hd =>
    rw [exec_eq_respond] at h
    cases h
    exact .inl ⟨i, rest, hd, rfl⟩
  case h_2 op rest hd =>
    cases h
    exact .inr ⟨op, rest, hd, rfl⟩
  case h_3 => cases h

/-- Everything the host can do when it continues: nothing, take the response it waits for, or do its current line. -/
theorem hostStep_next {s t : State} (h : hostStep s = .next t) :
    t = s ∨ (∃ x r, s.phase = .awaiting x ∧ s.response = some r ∧ t = s.take x r) ∨
    (∃ a, s.phase = .running ∧ s.program[s.line]? = some a ∧ hostLine a s = .next t) := by
  unfold hostStep at h
  split at h
  case h_1 => cases h; exact .inl rfl
  case h_2 x hphase =>
    split at h
    case h_1 r hr => cases h; exact .inr (.inl ⟨x, r, hphase, hr, rfl⟩)
    case h_2 => cases h; exact .inl rfl
  case h_3 hphase =>
    split at h
    case h_1 a ha => exact .inr (.inr ⟨a, hphase, ha, h⟩)
    case h_2 => cases h; exact .inl rfl

/-- At a line of its program, with nothing in flight, the host does that line. -/
theorem step_of_atLine {s : State} {a : HostLine} (h : s.atLine a) : step s = hostLine a s := by
  obtain ⟨hreq, hphase, hline⟩ := h
  rw [step_of_no_request hreq, hostStep, hphase]
  simp only [hline]

/-- A waiting host takes the response as soon as it is there. -/
theorem step_of_awaiting {s : State} {x : Option String} {r : Response} (hreq : s.request = [])
    (hphase : s.phase = .awaiting x) (hresp : s.response = some r) : step s = .next (s.take x r) := by
  rw [step_of_no_request hreq, hostStep, hphase]
  simp only [hresp]

/-- Settles O7: the block's branch of `step`, at the decoder's first case. -/
theorem stepRunsTheDecodedRequest : Obligations.StepRunsTheDecodedRequest :=
  fun _ _ _ h => step_of_decoded h

/-- Settles O40: every operation is one `respond`, of which the state's own lemmas give the frame. -/
theorem operationsOnlyRespond : Obligations.OperationsOnlyRespond := fun i s =>
  ⟨_, _, exec_eq_respond i s, rfl, by simp⟩

/-- Settles O41: the response is `execResponse`, a function of the parameters and the request. -/
theorem responseDependsOnRequestOnly : Obligations.ResponseDependsOnRequestOnly := by
  unfold Obligations.ResponseDependsOnRequestOnly
  refine ⟨fun i s u hepoch hpolicy => ?_, fun s u => ⟨fun v => ?_, fun t o => ?_, fun b m => ?_, fun b m v => ?_⟩⟩
  · rw [responseOf_exec, responseOf_exec, hepoch, hpolicy]
  all_goals rw [responseOf_exec, responseOf_exec]; rfl

end Sys2Proof.Machine
end

section
/-! Proofs: what each codec answers is legal (10_state.md R26, 41_datetime.md R133, R141, 60_exceptions.md R202). -/

namespace Sys2Proof.Machine

/-! ### A codec's answer: a value in order, or an error of the table -/

/-- The value meets `ok`, or the error is one of the table (60_exceptions.md R202). -/
def LegalWith {α : Type} (ok : α → Prop) : Except CodecError α → Prop
  | .ok a => ok a
  | .error e => errorLegal e = true

theorem legalWith_bind {α β : Type} {P : α → Prop} {Q : β → Prop} {r : Except CodecError α}
    {f : α → Except CodecError β} (hr : LegalWith P r) (hf : ∀ a, P a → LegalWith Q (f a)) :
    LegalWith Q (r >>= f) := by
  cases r with
  | ok a => exact hf a hr
  | error e => exact hr

theorem legalWith_mono {α : Type} {P Q : α → Prop} {r : Except CodecError α} (hr : LegalWith P r)
    (h : ∀ a, P a → Q a) : LegalWith Q r := by
  cases r with
  | ok a => exact h a hr
  | error e => exact hr

/-- The response of a codec's answer is legal when the answer is. -/
theorem responseLegal_map {α : Type} {epoch : EpochBase} {P : α → Prop} {r : Except CodecError α} {f : α → Result}
    (hr : LegalWith P r) (hf : ∀ a, P a → responseLegal epoch (.ok (f a)) = true) :
    responseLegal epoch (responseFrom (r.map f)) = true := by
  cases r with
  | ok a => exact hf a hr
  | error e => exact hr

/-! ### Bits and packed bytes as numbers -/

theorem bits_lt (b : Byte) (hi lo : Nat) : bits b hi lo < 2 ^ (hi - lo + 1) :=
  Nat.mod_lt _ (by positivity)

theorem bits_eq_zero_of_lt {b : Byte} {lo : Nat} (hi : Nat) (h : b.toNat < 2 ^ lo) : bits b hi lo = 0 := by
  rw [bits, Nat.shiftRight_eq_div_pow, Nat.div_eq_of_lt h, Nat.zero_mod]

/-- A packed byte is sixteen times its tens digit and its ones digit (40_bcd.md R100). -/
theorem bcdByte_toNat {v : Nat} (h : v ≤ 99) : (bcdByte v).toNat = 16 * (v / 10) + v % 10 := by
  rw [bcdByte, ← Nat.shiftLeft_add_eq_or_of_lt (by omega : v % 10 < 2 ^ 4), Nat.shiftLeft_eq, BitVec.toNat_ofNat]
  omega

/-- The hours byte of DT.ENC: from 20 on bit 5 stands for the 20 (41_datetime.md R136). -/
theorem encHour_toNat : ∀ h < 24,
    (encHour h).toNat = if 20 ≤ h then 0x20 + (h - 20) else 16 * (h / 10) + h % 10 := by
  decide

/-! ### DT.DEC field by field -/

theorem decDigits_legal {i : Nat} (t o : Nat) (hi : errorLegal (digitError i) = true) :
    LegalWith (fun v => v = t * 10 + o ∧ t ≤ 9 ∧ o ≤ 9) (decDigits i t o) := by
  unfold decDigits
  split
  case isTrue h => exact ⟨rfl, by simpa [digitOk] using h⟩
  case isFalse => exact hi

theorem inRange_legal {i : Nat} (lo hi v : Nat) (h : errorLegal (fieldError i) = true) :
    LegalWith (fun w => lo ≤ w ∧ w ≤ hi) (inRange i lo hi v) := by
  unfold inRange
  split
  case isTrue => exact h
  case isFalse hv => exact ⟨by omega, by omega⟩

theorem decSec_legal (b : Byte) : LegalWith (fun v => 0 ≤ v ∧ v ≤ 59) (decSec b) :=
  legalWith_bind (decDigits_legal _ _ rfl) fun _ _ => inRange_legal _ _ _ rfl

theorem decMin_legal (b : Byte) : LegalWith (fun v => 0 ≤ v ∧ v ≤ 59) (decMin b) :=
  legalWith_bind (decDigits_legal _ _ rfl) fun _ _ => inRange_legal _ _ _ rfl

theorem decHour24_legal (b : Byte) : LegalWith (· ≤ 23) (decHour24 b) :=
  legalWith_bind (decDigits_legal _ _ rfl) fun _ _ => legalWith_mono (inRange_legal _ _ _ rfl) fun _ h => h.2

theorem decHour12Resolve_legal (b : Byte) : LegalWith (· ≤ 23) (decHour12Resolve b) := by
  refine legalWith_bind (decDigits_legal _ _ rfl) fun _ _ =>
    legalWith_bind (inRange_legal _ _ _ rfl) fun h12 _ => ?_
  show h12 % 12 + (if _ then 12 else 0) ≤ 23
  split <;> omega

/-- 41_datetime.md R127: one tens bit, so at most 19. -/
theorem decHour12Source_legal (b : Byte) : LegalWith (· ≤ 19) (decHour12Source b) := by
  refine legalWith_mono (decDigits_legal _ _ rfl) fun v ⟨hv, _, hones⟩ => ?_
  have htens : ChipField.HR_TENS.get b < 2 := get_HR_TENS b ▸ bits_lt b 4 4
  omega

theorem decHour_legal (policy : Hour12Policy) (b : Byte) : LegalWith (· ≤ 23) (decHour policy b) := by
  unfold decHour
  split
  · cases policy with
    | RESOLVE => exact decHour12Resolve_legal b
    | REJECT => exact rfl
    | SOURCE => exact legalWith_mono (decHour12Source_legal b) fun _ h => by omega
  · exact decHour24_legal b

theorem decWday_legal (b : Byte) : LegalWith (fun v => 1 ≤ v ∧ v ≤ 7) (decWday b) := by
  have hlt : ChipField.WD_DAY.get b < 8 := get_WD_DAY b ▸ bits_lt b 2 0
  unfold decWday
  split
  case isTrue => exact rfl
  case isFalse h => exact ⟨by omega, by omega⟩

theorem decDay_legal (b : Byte) : LegalWith (fun v => 1 ≤ v ∧ v ≤ 31) (decDay b) :=
  legalWith_bind (decDigits_legal _ _ rfl) fun _ _ => inRange_legal _ _ _ rfl

theorem decMonth_legal (b : Byte) : LegalWith (fun v => 1 ≤ v ∧ v ≤ 12) (decMonth b) :=
  legalWith_bind (decDigits_legal _ _ rfl) fun _ _ => inRange_legal _ _ _ rfl

theorem decYear_legal (epoch : EpochBase) (b : Byte) :
    LegalWith (fun v => epoch.val ≤ v ∧ v ≤ epoch.val + 99) (decYear epoch b) := by
  refine legalWith_bind (decDigits_legal _ _ rfl) fun v ⟨hv, htens, hones⟩ => ?_
  show epoch.val ≤ epoch.val + v ∧ epoch.val + v ≤ epoch.val + 99
  omega

/-- 41_datetime.md R133: DT.DEC answers a record in range, or an error of the table. -/
theorem dtDec_legal (epoch : EpochBase) (policy : Hour12Policy) (p : PackedDate) :
    LegalWith (fun t => calendarInRange epoch t = true) (dtDec epoch policy p) := by
  refine legalWith_bind (decSec_legal _) fun sec hsec => legalWith_bind (decMin_legal _) fun min hmin =>
    legalWith_bind (decHour_legal _ _) fun hour hhour => legalWith_bind (decWday_legal _) fun wday hwday =>
    legalWith_bind (decDay_legal _) fun day hday => legalWith_bind (decMonth_legal _) fun month hmonth =>
    legalWith_bind (decYear_legal _ _) fun year hyear => ?_
  have hepoch := epoch.isLt
  simp only [calendarInRange, LegalWith, pure, Except.pure, BitVec.toNat_ofNat, Bool.and_eq_true, decide_eq_true_eq]
  omega

/-! ### DT.ENC -/

theorem checkRange_legal {i : Nat} (lo hi v : Nat) (h : errorLegal (rangeErrorAt i) = true) :
    LegalWith (fun _ => lo ≤ v ∧ v ≤ hi) (checkRange i lo hi v) := by
  unfold checkRange
  split
  case isTrue => exact h
  case isFalse hv => exact ⟨by omega, by omega⟩

/-- The unused bits of a date block are clear when each byte is below its lowest unused bit (41_datetime.md R141). -/
theorem unusedBitsClear_of_lt {p : PackedDate} (hsec : p.seconds.toNat < 128) (hmin : p.minutes.toNat < 128)
    (hhour : p.hours.toNat < 64) (hwday : p.weekday.toNat < 8) (hday : p.date.toNat < 64)
    (hmonth : p.monthCentury.toNat < 32) : unusedBitsClear p = true := by
  simp only [unusedBitsClear, Bool.and_eq_true, beq_iff_eq]
  refine ⟨⟨⟨⟨⟨⟨⟨?_, ?_⟩, ?_⟩, ?_⟩, ?_⟩, ?_⟩, ?_⟩, ?_⟩ <;> exact bits_eq_zero_of_lt _ (by omega)

/-- 41_datetime.md R141: DT.ENC answers a block with its unused bits clear, or an error of the table. -/
theorem dtEnc_legal (epoch : EpochBase) (t : CalendarTime) :
    LegalWith (fun p => unusedBitsClear p = true) (dtEnc epoch t) := by
  refine legalWith_bind (checkRange_legal _ _ _ rfl) fun _ hsec =>
    legalWith_bind (checkRange_legal _ _ _ rfl) fun _ hmin =>
    legalWith_bind (checkRange_legal _ _ _ rfl) fun _ hhour => legalWith_bind (checkRange_legal _ _ _ rfl) fun _ hwday =>
    legalWith_bind (checkRange_legal _ _ _ rfl) fun _ hday => legalWith_bind (checkRange_legal _ _ _ rfl) fun _ hmonth =>
    legalWith_bind (checkRange_legal _ _ _ rfl) fun _ _ => unusedBitsClear_of_lt ?_ ?_ ?_ ?_ ?_ ?_
  · rw [encSec, bcdByte_toNat (by omega)]; omega
  · rw [encMin, bcdByte_toNat (by omega)]; omega
  · rw [encHour_toNat _ (by omega)]; split <;> omega
  · rw [encWday, BitVec.toNat_ofNat]; omega
  · rw [encDay, bcdByte_toNat (by omega)]; omega
  · rw [encMonth, bcdByte_toNat (by omega)]; omega

/-! ### The other codecs -/

theorem bcdEnc_legal (v : Int) : LegalWith (fun _ => True) (bcdEnc v) := by
  unfold bcdEnc
  split
  · exact rfl
  · trivial

theorem fldGet_legal (b m : Byte) : LegalWith (fun _ => True) (fldGet b m) := by
  unfold fldGet
  split
  · trivial
  · exact rfl

theorem fldSet_legal (b m v : Byte) : LegalWith (fun _ => True) (fldSet b m v) := by
  unfold fldSet
  split
  · split
    · exact rfl
    · trivial
  · exact rfl

/-- Every operation answers a legal response, whatever its operands are. -/
theorem execResponse_legal (epoch : EpochBase) (policy : Hour12Policy) (i : Instr) :
    responseLegal epoch (execResponse epoch policy i) = true := by
  cases i with
  | bcdEnc v => exact responseLegal_map (bcdEnc_legal v) fun _ _ => rfl
  | bcdDec t o => rfl
  | dtDec p => exact responseLegal_map (dtDec_legal epoch policy p) fun _ h => h
  | dtEnc t => exact responseLegal_map (dtEnc_legal epoch t) fun _ h => h
  | fldGet b m => exact responseLegal_map (fldGet_legal b m) fun _ _ => rfl
  | fldSet b m v => exact responseLegal_map (fldSet_legal b m v) fun _ _ => rfl

/-- 60_exceptions.md R202: E_OP is raised with an undefined OP byte only. -/
theorem illegalOpError_legal {bs : List Byte} {op : Byte} {rest : List Byte} (h : decode bs = .illegal op rest) :
    errorLegal (illegalOpError op) = true :=
  beq_iff_eq.mpr (decode_illegal h).2

/-! ### Legal machines -/

theorem legal_iff (s : State) : s.legal = true ↔ Names.wf s.names ∧
    (∀ r, s.response = some r → responseLegal s.epochBase r = true) ∧
    ∀ p ∈ s.names, valueLegal s.epochBase p.2 = true := by
  simp [State.legal, Option.all_eq_true, and_assoc]

/-- Legality speaks of the epoch base, the response port and the names only. -/
theorem legal_congr {s t : State} (hs : s.legal = true) (hepoch : t.epochBase = s.epochBase)
    (hresp : t.response = s.response) (hnames : t.names = s.names) : t.legal = true := by
  rw [State.legal, hepoch, hresp, hnames]
  exact hs

theorem legal_setResponse {s : State} {o : Option Response} (hs : s.legal = true)
    (ho : ∀ r, o = some r → responseLegal s.epochBase r = true) : (s.setResponse o).legal = true := by
  obtain ⟨hwf, -, hnames⟩ := (legal_iff s).mp hs
  exact (legal_iff _).mpr ⟨hwf, ho, hnames⟩

theorem legal_bind {s : State} {x : Option String} {v : HostValue} (hs : s.legal = true)
    (hv : valueLegal s.epochBase v = true) : (s.bind x v).legal = true := by
  cases x with
  | none => exact hs
  | some y =>
    obtain ⟨hwf, hresp, hnames⟩ := (legal_iff s).mp hs
    refine (legal_iff _).mpr ⟨bindName_wf hwf, hresp, fun p hp => ?_⟩
    rcases mem_bindName hp with rfl | hold
    · exact hv
    · exact hnames p hold

/-- A line of the host program keeps the machine legal: it binds only bytes and integers. -/
theorem hostLine_legal {a : HostLine} {s t : State} (hs : s.legal = true) (h : hostLine a s = .next t) :
    t.legal = true := by
  cases hostLine_next h with
  | presented x i h =>
    subst h
    exact legal_congr (legal_setResponse (o := none) hs fun _ hr => by cases hr) rfl rfl rfl
  | read x a n fits h =>
    subst h
    have hread : (s.transportRead a n).legal = true := legal_congr hs rfl rfl rfl
    exact legal_congr (legal_bind (x := some x) (v := .bytes (s.readData a n)) hread rfl) rfl rfl rfl
  | wrote a bs fits keeps h => exact legal_congr hs (h ▸ rfl) (h ▸ rfl) (h ▸ rfl)
  | wroteDate p h =>
    subst h
    have hwrite : (s.transportWrite 0x00 p.bytes).legal = true := legal_congr hs rfl rfl rfl
    exact legal_congr hwrite (by simp) (by simp) (by simp)
  | bound x n h =>
    exact legal_congr (legal_bind (x := some x) (v := .int n) hs rfl) (h ▸ rfl) (h ▸ rfl) (h ▸ rfl)
  | moved n h => exact legal_congr hs (h ▸ rfl) (h ▸ rfl) (h ▸ rfl)
  | stopped h => exact legal_congr hs (h ▸ rfl) (h ▸ rfl) (h ▸ rfl)

/-- A step of the block keeps the machine legal: every response it gives is. -/
theorem blockStep_legal {s t : State} (hs : s.legal = true) (h : blockStep s = .next t) : t.legal = true := by
  have answered : ∀ (rest : List Byte) (r : Response), responseLegal s.epochBase r = true →
      ((s.setRequest rest).respond r).legal = true := fun rest r hr =>
    legal_setResponse (legal_congr hs rfl rfl rfl) fun _ hr' => Option.some.inj hr' ▸ hr
  rcases blockStep_next h with ⟨i, rest, -, rfl⟩ | ⟨op, rest, hd, rfl⟩
  · exact answered rest _ (execResponse_legal s.epochBase s.hour12Policy i)
  · exact answered rest _ (illegalOpError_legal hd)

/-- A step of the host keeps the machine legal: the response it binds was legal at the port. -/
theorem hostStep_legal {s t : State} (hs : s.legal = true) (h : hostStep s = .next t) : t.legal = true := by
  rcases hostStep_next h with rfl | ⟨x, r, -, hr, rfl⟩ | ⟨a, -, -, hline⟩
  · exact hs
  · obtain ⟨-, hresp, -⟩ := (legal_iff s).mp hs
    exact legal_congr (legal_bind (x := x) (v := .response r) hs (hresp r hr)) rfl rfl rfl
  · exact hostLine_legal hs hline

/-- Settles O47: the block gives legal responses only, and the host binds only what is legal at the port. -/
theorem stepKeepsLegal : Obligations.StepKeepsLegal := fun s t hs h => by
  by_cases hreq : s.request = []
  · exact hostStep_legal hs (step_of_no_request hreq ▸ h)
  · exact blockStep_legal hs (step_of_request hreq ▸ h)

end Sys2Proof.Machine
end

section
/-! Proofs: host lines. A request line from its operands to its bound response (20_memory.md R52, 30_encoding.md R70),
and a line that reads an absent result (10_state.md R25). -/

namespace Sys2Proof.Machine

/-! ### A request line takes three steps -/

@[simp] theorem andThen_of_next {α β : Type} (a : α) (f : α → Host.Outcome β Fault Refusal) :
    andThen (.next a) f = f a := rfl

@[simp] theorem andThen_of_fault {α β : Type} (e : Fault) (f : α → Host.Outcome β Fault Refusal) :
    andThen (.fault e) f = .fault e := rfl

/-- What the assembler gives fits the ports: it checks V itself (30_encoding.md R70). -/
theorem assemble_wellFormed {m : Mnemonic} {vs : List Int} {i : Instr} (h : assemble m vs = .next i) :
    i.WellFormed := by
  cases m
  case bcdEnc =>
    simp only [assemble, assembleBcdEnc] at h
    split at h
    · split at h
      case isTrue hv => cases h; exact hv
      case isFalse => cases h
    · cases h
  case bcdDec =>
    simp only [assemble, assembleBcdDec] at h
    split at h
    · obtain ⟨t, -, h⟩ := andThen_next h
      obtain ⟨o, -, h⟩ := andThen_next h
      cases h; rfl
    · cases h
  case dtEnc =>
    simp only [assemble, assembleDtEnc] at h
    split at h
    · obtain ⟨bs, -, h⟩ := andThen_next h
      obtain ⟨y, -, h⟩ := andThen_next h
      split at h <;> cases h
      rfl
    · cases h
  case fldFill =>
    obtain ⟨bs, -, h⟩ := andThen_next h
    split at h
    · split at h <;> cases h
      rfl
    · cases h
  -- every other mnemonic takes register bytes, a fixed number of them
  all_goals
    obtain ⟨bs, -, h⟩ := andThen_next h
    split at h <;> cases h
    rfl

theorem core_run_succ {s t : State} (h : step s = .next t) (k : Nat) : core.run (k + 1) s = core.run k t := by
  have hcore : core.step s = .next t := h
  simp only [Host.Core.run, hcore]

/-- First step: the host presents the frame of the assembled request. -/
theorem step_request_line {s : State} {x : Option String} {m : Mnemonic} {ops : List Operand} {vs : List Int}
    {i : Instr} (hline : s.atLine (.request x m ops)) (hops : operandValues s.names ops = .next vs)
    (hasm : assemble m vs = .next i) : step s = .next (s.present x i) := by
  rw [step_of_atLine hline]
  simp only [hostLine, hostRequest, hops, hasm, andThen_of_next]

/-- Second step: the block answers it, and the request port is empty. -/
theorem step_presented (s : State) (x : Option String) {i : Instr} (h : i.WellFormed) :
    step (s.present x i) =
      .next (((s.present x i).setRequest []).respond (execResponse s.epochBase s.hour12Policy i)) := by
  have hd : decode (s.present x i).request = .request i [] := by
    simpa using decode_encode_append h []
  rw [step_of_decoded hd, exec_eq_respond]
  rfl

/-- Third step included: the host has taken the response. -/
theorem run_request_line {s : State} {x : Option String} {m : Mnemonic} {ops : List Operand} {vs : List Int}
    {i : Instr} (hline : s.atLine (.request x m ops)) (hops : operandValues s.names ops = .next vs)
    (hasm : assemble m vs = .next i) :
    let r := execResponse s.epochBase s.hour12Policy i
    core.run 3 s = .next ((((s.present x i).setRequest []).respond r).take x r) := by
  intro r
  rw [core_run_succ (step_request_line hline hops hasm),
    core_run_succ (step_presented s x (assemble_wellFormed hasm)), core_run_succ (step_of_awaiting rfl rfl rfl)]
  rfl

/-- A line that binds a name binds it to what it gives. -/
theorem lookup_bind_self (s : State) (y : String) (v : HostValue) : (s.bind (some y) v).names.lookup y = some v :=
  lookup_bindName_self y v s.names

/-- A line leaves every name but its own alone. -/
theorem lookup_bind_other (s : State) {x : Option String} {y : String} (v : HostValue) (h : x ≠ some y) :
    (s.bind x v).names.lookup y = s.names.lookup y := by
  cases x with
  | none => rfl
  | some z => exact lookup_bindName_other v s.names fun hyz => h (congrArg some hyz.symm)

/-- Settles O52: the three steps of `run_request_line`, and the frames of the updates they make. -/
theorem requestLineRoundTrip : Obligations.RequestLineRoundTrip := by
  intro s x m ops vs i r hline hops hasm hr
  rw [responseOf_exec] at hr
  cases hr
  refine ⟨_, run_request_line hline hops hasm, fun y hy => ?_, fun y hy => ?_, by simp [State.take]⟩
  · subst hy
    exact lookup_bind_self _ y _
  · exact lookup_bind_other _ _ hy

/-! ### Reading the result of an error response -/

/-- An operand that faults makes its whole line's reading fault, after any operands that have values. -/
theorem operandValues_append_fault {ns : Names} {before : List Operand} (after : List Operand) {vs : List Int}
    {o : Operand} {e : Fault} (hbefore : operandValues ns before = .next vs) (ho : o.values ns = .fault e) :
    operandValues ns (before ++ o :: after) = .fault e := by
  induction before generalizing vs with
  | nil => simp only [List.nil_append, operandValues, ho, andThen_of_fault]
  | cons b bs ih =>
    obtain ⟨us, hus, hrest⟩ := andThen_next hbefore
    obtain ⟨ws, hws, -⟩ := andThen_next hrest
    simp only [List.cons_append, operandValues, hus, andThen_of_next, ih hws, andThen_of_fault]

/-- The operands of a date block write have the block's bytes as their values. -/
theorem operandValues_of_dateBlockOf {ns : Names} {addr : Byte} {vs : List Operand} {p : PackedDate}
    (h : dateBlockOf ns addr vs = some p) : operandValues ns vs = .next (p.bytes.map byteValue) := by
  unfold dateBlockOf at h
  split at h
  · rename_i x
    split at h
    · rename_i q hx
      split at h
      · cases h
        simp [operandValues, Operand.values, lookupName, hx, valuesOf, resultOf, resultValues]
      · cases h
    · cases h
  · cases h

section AbsentResult

variable {s : State} {x : String} {e : CodecError} (hx : s.names.lookup x = some (.response (.error e)))

include hx

theorem name_values_absent : (Operand.name x).values s.names = .fault .absentResult := by
  simp only [Operand.values, lookupName, hx]
  rfl

theorem part_values_absent (c : CalendarPart) : (Operand.part x c).values s.names = .fault .absentResult := by
  simp only [Operand.values, lookupName, hx]
  rfl

theorem compare_holds_absent {n : Int} {c : Cond} (hc : c = .eq x n ∨ c = .ne x n ∨ c = .lt x n) :
    c.holds s.names = .fault .absentResult := by
  rcases hc with rfl | rfl | rfl <;> simp only [Cond.holds, lookupName, hx] <;> rfl

end AbsentResult

/-- A request line whose operands' reading faults, faults. -/
theorem step_request_of_fault {s : State} {y : Option String} {m : Mnemonic} {ops : List Operand} {e : Fault}
    (hline : s.atLine (.request y m ops)) (hops : operandValues s.names ops = .fault e) : step s = .fault e := by
  rw [step_of_atLine hline]
  simp only [hostLine, hostRequest, hops, andThen_of_fault]

/-- A write whose operands' reading faults, faults: it is no write of a date block. -/
theorem step_write_of_fault {s : State} {addr : Byte} {ops : List Operand} {e : Fault}
    (hline : s.atLine (.wr addr ops)) (hops : operandValues s.names ops = .fault e) : step s = .fault e := by
  have hblock : dateBlockOf s.names addr ops = none := by
    rw [Option.eq_none_iff_forall_ne_some]
    intro p hp
    rw [operandValues_of_dateBlockOf hp] at hops
    cases hops
  rw [step_of_atLine hline]
  simp only [hostLine, hostWrite, hblock, hops, andThen_of_fault]

theorem step_ifGoto_of_fault {s : State} {c : Cond} {l : String} {e : Fault} (hline : s.atLine (.ifGoto c l))
    (hc : c.holds s.names = .fault e) : step s = .fault e := by
  rw [step_of_atLine hline]
  simp only [hostLine, hc, andThen_of_fault]

theorem step_ifStop_of_fault {s : State} {c : Cond} {e : Fault} (hline : s.atLine (.ifStop c))
    (hc : c.holds s.names = .fault e) : step s = .fault e := by
  rw [step_of_atLine hline]
  simp only [hostLine, hc, andThen_of_fault]

/-- Settles O44: the read of the absent result faults, and every line that makes it stops as it stopped. -/
theorem absentResultFaults : Obligations.AbsentResultFaults := by
  intro s x e hx
  refine ⟨fun before after vs o hbefore ho => ?_, fun n c hc => ?_⟩
  · have hfault : o.values s.names = .fault .absentResult := by
      rcases ho with rfl | ⟨c, rfl⟩
      · exact name_values_absent hx
      · exact part_values_absent hx c
    have hops := operandValues_append_fault after hbefore hfault
    exact ⟨fun y m hline => step_request_of_fault hline hops, fun a hline => step_write_of_fault hline hops⟩
  · have hholds := compare_holds_absent hx hc
    exact ⟨fun l hline => step_ifGoto_of_fault hline hholds, fun hline => step_ifStop_of_fault hline hholds⟩

end Sys2Proof.Machine
end

section
/-! Proofs: what each line of the host program leaves, and the turns of host and block (20_memory.md R50, R52). -/

namespace Sys2Proof.Machine

/-! ### The frame of a transport access (20_memory.md R44) -/

section TransportFrame

variable (s : State) (a : Nat)

@[simp] theorem transportRead_epochBase (n : Nat) : (s.transportRead a n).epochBase = s.epochBase := rfl
@[simp] theorem transportRead_hour12Policy (n : Nat) : (s.transportRead a n).hour12Policy = s.hour12Policy := rfl
@[simp] theorem transportRead_request (n : Nat) : (s.transportRead a n).request = s.request := rfl
@[simp] theorem transportRead_response (n : Nat) : (s.transportRead a n).response = s.response := rfl
@[simp] theorem transportRead_program (n : Nat) : (s.transportRead a n).program = s.program := rfl
@[simp] theorem transportRead_line (n : Nat) : (s.transportRead a n).line = s.line := rfl
@[simp] theorem transportRead_names (n : Nat) : (s.transportRead a n).names = s.names := rfl
@[simp] theorem transportRead_phase (n : Nat) : (s.transportRead a n).phase = s.phase := rfl
@[simp] theorem transportRead_bus (n : Nat) : (s.transportRead a n).bus = s.bus.tail := rfl
@[simp] theorem transportRead_accesses (n : Nat) : (s.transportRead a n).accesses = s.accesses + 1 := rfl
@[simp] theorem transportRead_chip (n : Nat) :
    (s.transportRead a n).chip = chipChange s.chipNow s.access.chipAfter := rfl
@[simp] theorem transportRead_lastRead (n : Nat) :
    (s.transportRead a n).lastRead = noteRead s.lastRead a (s.readData a n) := rfl

@[simp] theorem transportWrite_epochBase (bs : List Byte) : (s.transportWrite a bs).epochBase = s.epochBase := rfl
@[simp] theorem transportWrite_hour12Policy (bs : List Byte) :
    (s.transportWrite a bs).hour12Policy = s.hour12Policy := rfl
@[simp] theorem transportWrite_request (bs : List Byte) : (s.transportWrite a bs).request = s.request := rfl
@[simp] theorem transportWrite_response (bs : List Byte) : (s.transportWrite a bs).response = s.response := rfl
@[simp] theorem transportWrite_program (bs : List Byte) : (s.transportWrite a bs).program = s.program := rfl
@[simp] theorem transportWrite_line (bs : List Byte) : (s.transportWrite a bs).line = s.line := rfl
@[simp] theorem transportWrite_names (bs : List Byte) : (s.transportWrite a bs).names = s.names := rfl
@[simp] theorem transportWrite_phase (bs : List Byte) : (s.transportWrite a bs).phase = s.phase := rfl
@[simp] theorem transportWrite_lastRead (bs : List Byte) : (s.transportWrite a bs).lastRead = s.lastRead := rfl
@[simp] theorem transportWrite_bus (bs : List Byte) : (s.transportWrite a bs).bus = s.bus.tail := rfl
@[simp] theorem transportWrite_accesses (bs : List Byte) : (s.transportWrite a bs).accesses = s.accesses + 1 := rfl
@[simp] theorem transportWrite_chip (bs : List Byte) :
    (s.transportWrite a bs).chip = chipChange (transferWrite s.access.bus s.chipNow a bs) s.access.chipAfter := rfl

end TransportFrame

/-! ### What each line leaves -/

/-- What a line of the host program leaves when it goes on, line by line: only a request line presents a request, always
a well-formed one, only `RD` reads the chip and only `WR` writes it. -/
inductive LineDoes (s : State) : HostLine → State → Prop where
  | presented (x : Option String) (m : Mnemonic) (ops : List Operand) (i : Instr) (wf : i.WellFormed) :
      LineDoes s (.request x m ops) (s.present x i)
  | read (x : String) (addr : Byte) (n : Nat) :
      LineDoes s (.rd x addr n)
        ((s.transportRead addr.toNat n).bind (some x) (.bytes (s.readData addr.toNat n))).nextLine
  | wrote (addr : Byte) (vs : List Operand) (bs : List Byte) :
      LineDoes s (.wr addr vs) (s.transportWrite addr.toNat bs).nextLine
  | wroteDate (addr : Byte) (vs : List Operand) (p : PackedDate) :
      LineDoes s (.wr addr vs) ((s.transportWrite 0x00 p.bytes).forgetDateBlock).nextLine
  | bound (a : HostLine) (x : String) (n : Int) : LineDoes s a (s.bind (some x) (.int n)).nextLine
  | moved (a : HostLine) (n : Nat) : LineDoes s a (s.setLine n)
  | stopped (a : HostLine) : LineDoes s a (s.setPhase .stopped)

theorem hostRequest_does {x : Option String} {m : Mnemonic} {ops : List Operand} {s t : State}
    (h : hostRequest x m ops s = .next t) : LineDoes s (.request x m ops) t := by
  obtain ⟨vs, -, h⟩ := andThen_next h
  obtain ⟨i, hasm, h⟩ := andThen_next h
  cases h
  exact .presented x m ops i (assemble_wellFormed hasm)

theorem hostRead_does {x : String} {addr : Byte} {n : Nat} {s t : State} (h : hostRead x addr n s = .next t) :
    LineDoes s (.rd x addr n) t := by
  unfold hostRead at h
  split at h <;> cases h
  exact .read x addr n

theorem hostWriteBytes_next {addr : Byte} {bs : List Byte} {s t : State} (h : hostWriteBytes addr bs s = .next t) :
    t = (s.transportWrite addr.toNat bs).nextLine := by
  unfold hostWriteBytes at h
  split at h
  · split at h <;> cases h
    rfl
  · cases h

theorem hostWrite_does {addr : Byte} {vs : List Operand} {s t : State} (h : hostWrite addr vs s = .next t) :
    LineDoes s (.wr addr vs) t := by
  unfold hostWrite at h
  split at h
  · cases h
    exact .wroteDate addr vs _
  · obtain ⟨ns, -, h⟩ := andThen_next h
    obtain ⟨bs, -, h⟩ := andThen_next h
    rw [hostWriteBytes_next h]
    exact .wrote addr vs bs

/-- Every line that goes on leaves what `LineDoes` says of it. -/
theorem hostLine_does {a : HostLine} {s t : State} (h : hostLine a s = .next t) : LineDoes s a t := by
  cases a with
  | request x m ops => exact hostRequest_does h
  | rd x addr n => exact hostRead_does h
  | wr addr vs => exact hostWrite_does h
  | assign x n => cases h; exact .bound _ x n
  | add x y n =>
    obtain ⟨v, -, h⟩ := andThen_next h
    cases v <;> cases h
    exact .bound _ x _
  | label l => cases h; exact .moved _ _
  | goto l =>
    obtain ⟨n, rfl⟩ := hostGoto_next h
    exact .moved _ n
  | ifGoto c l =>
    obtain ⟨b, -, h⟩ := andThen_next h
    split at h
    · obtain ⟨n, rfl⟩ := hostGoto_next h
      exact .moved _ n
    · cases h; exact .moved _ _
  | ifStop c =>
    obtain ⟨b, -, h⟩ := andThen_next h
    split at h <;> cases h
    · exact .stopped _
    · exact .moved _ _
  | stop => cases h; exact .stopped _

/-! ### Turns -/

/-- No request at the port and no response waited for: the host is in turn. -/
theorem inTurn_of_not_awaiting {t : State} (hreq : t.request = []) (hphase : ∀ x, t.phase ≠ .awaiting x) : t.inTurn :=
  .inl ⟨hreq, fun x hx => absurd hx (hphase x)⟩

/-- A line of a running host presents one complete frame and waits, or leaves the port empty and does not wait. -/
theorem hostLine_inTurn {a : HostLine} {s t : State} (hreq : s.request = []) (hphase : s.phase = .running)
    (h : hostLine a s = .next t) : t.inTurn := by
  cases hostLine_does h with
  | presented x m ops i wf => exact .inr ⟨i, x, wf, rfl, rfl, rfl⟩
  | _ => exact inTurn_of_not_awaiting (by simpa using hreq) (by simp [hphase])

/-- A step of the host keeps the turns: with no request at the port, only a request line ends its turn. -/
theorem hostStep_inTurn {s t : State} (hs : s.inTurn) (hreq : s.request = []) (h : hostStep s = .next t) :
    t.inTurn := by
  rcases hostStep_next h with rfl | ⟨x, r, -, -, rfl⟩ | ⟨a, hphase, -, hline⟩
  · exact hs
  · exact inTurn_of_not_awaiting (by simpa [State.take] using hreq) (by simp [State.take])
  · exact hostLine_inTurn hreq hphase hline

/-- A step at a presented frame answers it, and leaves the request port empty. -/
theorem step_of_encoded {s : State} {i : Instr} {rest : List Byte} (wf : i.WellFormed)
    (h : s.request = encode i ++ rest) :
    step s = .next ((s.setRequest rest).respond (execResponse s.epochBase s.hour12Policy i)) := by
  rw [step_of_decoded (h ▸ decode_encode_append wf rest), exec_eq_respond]
  rfl

/-- Settles O49: the host presents one well-formed frame only when it waits for nothing, and the block answers a
presented frame in one step. -/
theorem stepKeepsTurns : Obligations.StepKeepsTurns := by
  intro s t hs h
  rcases hs with ⟨hreq, hwait⟩ | ⟨i, x, wf, hreq, -, -⟩
  · exact hostStep_inTurn (.inl ⟨hreq, hwait⟩) hreq (step_of_no_request hreq ▸ h)
  · rw [step_of_encoded (rest := []) wf (by simpa using hreq)] at h
    cases h
    exact .inl ⟨rfl, fun _ _ => ⟨_, rfl⟩⟩

/-- Settles O9, by induction on the queue: one step answers the first frame, and leaves the rest of the queue and the
parameters on which the other responses depend. -/
theorem responsesInOrderPresented : Obligations.ResponsesInOrderPresented := by
  intro is
  induction is with
  | nil => intro s _ _; rfl
  | cons i is ih =>
    intro s hwf hreq
    obtain ⟨wf, hwf⟩ := List.forall_mem_cons.mp hwf
    have hstep := step_of_encoded (rest := is.flatMap encode) wf hreq
    have hrest := ih ((s.setRequest (is.flatMap encode)).respond (execResponse s.epochBase s.hour12Policy i)) hwf rfl
    simp only [responseOf_exec] at hrest ⊢
    simp only [List.length_cons, responsesGiven, hstep, List.map_cons, hrest]
    rfl

/-! ### What changes the chip -/

/-- The block never touches the chip (20_memory.md R40). -/
theorem blockStep_chip {s t : State} (h : blockStep s = .next t) : t.chip = s.chip := by
  rcases blockStep_next h with ⟨i, rest, -, rfl⟩ | ⟨op, rest, -, rfl⟩ <;> rfl

/-- Settles O51: on a quiet access a read changes no register, and only a `WR` line writes. -/
theorem onlyWritesChangeTheChip : Obligations.OnlyWritesChangeTheChip := by
  intro s t hquiet h hchip
  by_cases hreq : s.request = []
  · rw [step_of_no_request hreq] at h
    rcases hostStep_next h with rfl | ⟨x, r, -, -, rfl⟩ | ⟨a, hphase, hat, hline⟩
    · exact absurd rfl hchip
    · exact absurd (by simp [State.take]) hchip
    · cases hostLine_does hline with
      | wrote addr vs bs => exact ⟨addr, vs, hreq, hphase, hat⟩
      | wroteDate addr vs p => exact ⟨addr, vs, hreq, hphase, hat⟩
      | read x addr n => exact absurd (transportRead_chip_of_quiet hquiet addr.toNat n) hchip
      | presented x m ops i wf => exact absurd rfl hchip
      | _ => exact absurd (by simp) hchip
  · exact absurd (blockStep_chip (step_of_request hreq ▸ h)) hchip

end Sys2Proof.Machine
end

section
/-! Proofs: what a transport access brings and stores (20_memory.md R43 to R51), and which transfers are refused
(70_reset_and_hazards.md R237, R243). -/

namespace Sys2Proof.Machine

/-! ### The field table -/

/-- The fields of one register, in the table's order. -/
def fieldsOf (r : ChipReg) : List ChipField := ChipField.all.filter fun f => f.row.reg == r

theorem mem_fieldsOf (f : ChipField) : f ∈ fieldsOf f.row.reg :=
  List.mem_filter.mpr ⟨mem_all f, beq_self_eq_true _⟩

/-- Two fields of one register are disjoint, but for RS and its halves. -/
theorem fieldsOf_disjoint (r : ChipReg) : ∀ f ∈ fieldsOf r, ∀ g ∈ fieldsOf r, f ≠ g →
    ¬(f = .RS ∧ (g = .RS2 ∨ g = .RS1)) → ¬(g = .RS ∧ (f = .RS2 ∨ f = .RS1)) → f.mask &&& g.mask = 0 := by
  cases r <;> decide

/-- Settles O39, register by register. -/
theorem fieldTableIsAPartition : Obligations.FieldTableIsAPartition := by
  refine ⟨fun f => ?_, fun f g hne hreg => ?_, fun r => ?_⟩
  · cases f <;> decide
  · exact fieldsOf_disjoint _ f (mem_fieldsOf f) g (hreg ▸ mem_fieldsOf g) hne
  · cases r <;> decide

/-! ### Reads -/

/-- What a transfer carries for the register at address + k is its byte k. -/
@[simp] theorem carriedTo_add (a k : Nat) (bs : List Byte) : carriedTo a bs (a + k) = bs[k]? := by
  simp [carriedTo]

/-- A transfer carries nothing for a register outside it. -/
theorem carriedTo_outside {a b : Nat} {bs : List Byte} (h : b < a ∨ a + bs.length ≤ b) : carriedTo a bs b = none := by
  unfold carriedTo
  split
  · exact List.getElem?_eq_none (by omega)
  · rfl

/-- The first byte goes to the first address, the other bytes are a transfer from the next address on. -/
theorem carriedTo_cons (a b : Nat) (v : Byte) (bs : List Byte) :
    carriedTo a (v :: bs) b = if a = b then some v else carriedTo (a + 1) bs b := by
  rcases lt_trichotomy a b with h | rfl | h
  · rw [carriedTo, carriedTo, if_pos h.le, if_neg h.ne, if_pos (Nat.succ_le_of_lt h),
      show b - a = (b - (a + 1)) + 1 by omega, List.getElem?_cons_succ]
  · simp [carriedTo]
  · rw [if_neg h.ne', carriedTo_outside (.inl h), carriedTo_outside (.inl (by omega))]

/-- After a read the host's latest read of a register is the byte the read brought for it, or what it was. -/
theorem noteRead_get (bs : List Byte) : ∀ (r : Vector (Option Byte) 19) (a b : Nat), a + bs.length ≤ 19 →
    (noteRead r a bs)[b]? = ((carriedTo a bs b).map some).or r[b]? := by
  induction bs with
  | nil => intro r a b _; simp [noteRead, carriedTo]
  | cons v bs ih =>
    intro r a b h
    rw [List.length_cons] at h
    rw [noteRead, ih _ _ _ (by omega), carriedTo_cons, Vector.getElem?_setIfInBounds]
    by_cases hab : a = b
    · subst hab
      rw [carriedTo_outside (.inl (Nat.lt_succ_self a))]
      simp [show a < 19 by omega]
    · simp [hab]

theorem transferFits_iff (a n : Nat) : transferFits a n = true ↔ a + n ≤ 0x13 := decide_eq_true_iff

/-- A read inside the map goes on, whatever the bus does. -/
theorem step_read {s : State} {x : String} {addr : Byte} {n : Nat} (hline : s.atLine (.rd x addr n))
    (hfits : addr.toNat + n ≤ 0x13) :
    step s = .next ((s.transportRead addr.toNat n).bind (some x) (.bytes (s.readData addr.toNat n))).nextLine := by
  rw [step_of_atLine hline]
  simp only [hostLine, hostRead, (transferFits_iff _ _).mpr hfits, if_true]

/-- 20_memory.md R44: a bus that acknowledges brings the registers of the chip as it is at the access. -/
theorem readData_of_acknowledged {s : State} (h : s.access.bus = .acknowledged) (a n : Nat) :
    s.readData a n = chipRead s.chipNow a n := by
  rw [State.readData, h]
  rfl

/-- Settles O54: the read is of one chip image, and the host notes it byte by byte. -/
theorem readBringsRegisters : Obligations.ReadBringsRegisters := by
  intro s x addr n hline hfits hbus
  have hdata := readData_of_acknowledged hbus addr.toNat n
  have hlen : (s.readData addr.toNat n).length = n := hdata ▸ chipRead_length _ _ _ hfits
  have hnote : ∀ a : Nat, (noteRead s.lastRead addr.toNat (s.readData addr.toNat n))[a]? =
      ((carriedTo addr.toNat (s.readData addr.toNat n) a).map some).or s.lastRead[a]? :=
    fun a => noteRead_get _ _ _ _ (by omega)
  refine ⟨_, s.readData addr.toNat n, step_read hline hfits, lookup_bind_self _ x _, hlen,
    fun k hk => hdata ▸ chipRead_get _ _ _ _ hk, fun y hy => ?_, by simp, by simp, by simp, fun k hk => ?_,
    fun a ha => ?_, ?_⟩
  · exact lookup_bind_other _ _ fun h => hy (Option.some.inj h).symm
  · have hbyte := List.getElem?_eq_getElem (hlen.symm ▸ hk : k < (s.readData addr.toNat n).length)
    simp [hnote, hbyte]
  · have hout : carriedTo addr.toNat (s.readData addr.toNat n) a = none := carriedTo_outside (by omega)
    simp [hnote, hout]
  · obtain ⟨hreq, -, -⟩ := hline
    simp [hreq]

/-- 20_memory.md R51: a failed read of as many bytes as the bus leaves brings just those. -/
theorem readData_of_failed {s : State} {data : List Byte} {reached : Nat}
    (h : s.access.bus = .failed data reached) (a : Nat) : s.readData a data.length = data := by
  rw [State.readData, h, transferRead, List.take_left]

/-- A read whose access fails, and in which the chip does nothing, goes on with the bytes the bus leaves. -/
theorem step_read_of_failed {s : State} {x : String} {addr : Byte} {bs : List Byte} {reached : Nat}
    (hline : s.atLine (.rd x addr bs.length)) (hfits : addr.toNat + bs.length ≤ 0x13)
    (haccess : s.access = ⟨[], .failed bs reached, []⟩) :
    ∃ t, step s = .next t ∧ t.names.lookup x = some (.bytes bs) ∧ t.chip = s.chip := by
  refine ⟨_, step_read hline hfits, ?_, by simp [State.chipNow, haccess, chipChange]⟩
  rw [readData_of_failed (congrArg Access.bus haccess)]
  exact lookup_bind_self _ x _

/-- Settles O55: the access in which the bus fails and leaves just those bytes. -/
theorem failedReadBringsAnyBytes : Obligations.FailedReadBringsAnyBytes := by
  intro s x addr bs reached hline hfits
  have hline' : (s.setBus [⟨[], .failed bs reached, []⟩]).atLine (.rd x addr bs.length) := hline
  exact step_read_of_failed hline' hfits rfl

/-! ### The operands of a write -/

/-- Operand values that are bytes are those bytes. -/
theorem byteOperands_of_bytes (bs : List Byte) : byteOperands (bs.map fun b => (b.toNat : Int)) = .next bs := by
  induction bs with
  | nil => rfl
  | cons b bs ih =>
    have hb : byteOperand (b.toNat : Int) = .next b := by
      have := b.isLt
      rw [byteOperand, if_pos (by omega), BitVec.ofInt_natCast, BitVec.ofNat_toNat, BitVec.setWidth_eq]
    simp only [List.map_cons, byteOperands, hb, ih, andThen_of_next]

/-- Only a write at address 0x00 is a date block's. -/
theorem dateBlockOf_address {ns : Names} {addr : Byte} {vs : List Operand} {p : PackedDate}
    (h : dateBlockOf ns addr vs = some p) : addr = 0x00 := by
  unfold dateBlockOf at h
  split at h
  · split at h
    · split at h
      · assumption
      · cases h
    · cases h
  · cases h

theorem dateBlockOf_ne_zero (ns : Names) {addr : Byte} (vs : List Operand) (h : addr ≠ 0x00) :
    dateBlockOf ns addr vs = none :=
  Option.eq_none_iff_forall_ne_some.mpr fun _ hp => h (dateBlockOf_address hp)

/-- A write of bytes that is no date block's is the write of those bytes. -/
theorem step_write_bytes {s : State} {addr : Byte} {vs : List Operand} {bs : List Byte}
    (hline : s.atLine (.wr addr vs)) (hvals : operandValues s.names vs = .next (bs.map fun b => (b.toNat : Int)))
    (hblock : dateBlockOf s.names addr vs = none) : step s = hostWriteBytes addr bs s := by
  rw [step_of_atLine hline]
  simp only [hostLine, hostWrite, hblock, hvals, andThen_of_next, byteOperands_of_bytes]

/-- 41_datetime.md R141: the write of a date block carries no read back. -/
theorem step_write_dateBlock {s : State} {x : String} {p : PackedDate} (hline : s.atLine (.wr 0x00 [.name x]))
    (hx : s.names.lookup x = some (.response (.ok (.registers p)))) :
    step s = .next ((s.transportWrite 0x00 p.bytes).forgetDateBlock).nextLine := by
  rw [step_of_atLine hline]
  simp [hostLine, hostWrite, dateBlockOf, hx, hostWriteDateBlock]

section WriteBytes

variable {s : State} {addr : Byte} {bs : List Byte}

theorem hostWriteBytes_of_keeps (hfits : addr.toNat + bs.length ≤ 0x13)
    (hkeeps : allKeepProtected s.lastRead addr.toNat bs = true) :
    hostWriteBytes addr bs s = .next (s.transportWrite addr.toNat bs).nextLine := by
  rw [hostWriteBytes, if_pos ((transferFits_iff _ _).mpr hfits), if_pos hkeeps]

theorem hostWriteBytes_of_not_keeps (hfits : addr.toNat + bs.length ≤ 0x13)
    (hkeeps : ¬allKeepProtected s.lastRead addr.toNat bs = true) :
    hostWriteBytes addr bs s = .refused .protectedBits := by
  rw [hostWriteBytes, if_pos ((transferFits_iff _ _).mpr hfits), if_neg hkeeps]

theorem hostWriteBytes_of_not_fits (hfits : ¬addr.toNat + bs.length ≤ 0x13) :
    hostWriteBytes addr bs s = .refused .chipAddress := by
  rw [hostWriteBytes, if_neg (mt (transferFits_iff _ _).mp hfits)]

end WriteBytes

/-- Settles O57: nothing that reaches past 0x12 fits; a date block does fit, so such a write is none. -/
theorem transferBeyondMapRefused : Obligations.TransferBeyondMapRefused := by
  refine ⟨fun s x addr n hline hpast => ?_, fun s addr vs bs hline hvals hpast => ?_⟩
  · rw [step_of_atLine hline]
    simp only [hostLine, hostRead, if_neg (mt (transferFits_iff addr.toNat n).mp (by omega))]
  · have hblock : dateBlockOf s.names addr vs = none := by
      rw [Option.eq_none_iff_forall_ne_some]
      intro p hp
      have hmap := (operandValues_of_dateBlockOf hp).symm.trans hvals
      injection hmap with hmap
      have hlen : 7 = bs.length := by simpa [PackedDate.bytes] using congrArg List.length hmap
      have haddr : addr.toNat = 0 := congrArg BitVec.toNat (dateBlockOf_address hp)
      omega
    rw [step_write_bytes hline hvals hblock, hostWriteBytes_of_not_fits (by omega)]

/-! ### What a write stores -/

/-- Under a mask, a byte put together by the mask is the part the mask takes. -/
theorem merge_and_mask (b c m : Byte) : ((b &&& ~~~m) ||| (c &&& m)) &&& m = c &&& m := by
  ext i
  simp only [BitVec.getElem_and, BitVec.getElem_or, BitVec.getElem_not]
  cases m[i] <;> simp

theorem merge_and_not_mask (b c m : Byte) : ((b &&& ~~~m) ||| (c &&& m)) &&& ~~~m = b &&& ~~~m := by
  ext i
  simp only [BitVec.getElem_and, BitVec.getElem_or, BitVec.getElem_not]
  cases m[i] <;> simp

theorem bsy_iff (b : Byte) : b.getLsbD 2 = true ↔ b &&& 0x04 ≠ 0 := by revert b; decide

theorem conv_iff (b : Byte) : b.getLsbD 5 = true ↔ b &&& 0x20 ≠ 0 := by revert b; decide

/-- A write of the status register stores every bit but BSY (20_memory.md R50). -/
theorem statusAfter_status_stored (old b : Byte) : statusAfter old 0x0F b &&& 0xFB = b &&& 0xFB :=
  merge_and_not_mask b old 0x04

theorem statusAfter_status_bsy (old b : Byte) : statusAfter old 0x0F b &&& 0x04 = old &&& 0x04 :=
  merge_and_mask b old 0x04

/-- Setting CONV starts the conversion that BSY reflects (20_memory.md R50). -/
theorem statusAfter_control (old c : Byte) :
    statusAfter old 0x0E c = if c.getLsbD 5 = true then old ||| 0x04 else old :=
  (if_neg (by decide)).trans (if_congr ((and_iff_right rfl).trans (conv_iff c).symm) rfl rfl)

theorem statusAfter_control_stored (old c : Byte) : statusAfter old 0x0E c &&& 0xFB = old &&& 0xFB := by
  rw [statusAfter_control]
  split
  · revert old; decide
  · rfl

theorem statusAfter_control_bsy (old c : Byte) :
    (statusAfter old 0x0E c).getLsbD 2 = true ↔ old.getLsbD 2 = true ∨ c.getLsbD 5 = true := by
  rw [statusAfter_control]
  split
  case isTrue hconv => simp [hconv]
  case isFalse hconv => exact (or_iff_left hconv).symm

/-- The status register after a transfer: every bit but BSY is the byte it carries there, or what it was; BSY is 1 where
it was, or where the transfer sets CONV (20_memory.md R48, R50). -/
theorem statusByte_after_chipWrite (image : ChipImage) (a : Nat) (bs : List Byte) :
    statusByte (chipWrite image a bs) &&& 0xFB = ((carriedTo a bs 0x0F).getD (statusByte image)) &&& 0xFB ∧
    ((statusByte (chipWrite image a bs)).getLsbD 2 = true ↔ (statusByte image).getLsbD 2 = true ∨
      ∃ c, carriedTo a bs 0x0E = some c ∧ c.getLsbD 5 = true) := by
  rw [statusByte_chipWrite]
  generalize hmid : (carriedTo a bs 0x0E).elim (statusByte image) (statusAfter (statusByte image) 0x0E) = mid
  have hstored : mid &&& 0xFB = statusByte image &&& 0xFB := by
    subst hmid
    cases carriedTo a bs 0x0E with
    | none => rfl
    | some c => exact statusAfter_control_stored _ c
  have hbsy : mid.getLsbD 2 = true ↔ (statusByte image).getLsbD 2 = true ∨
      ∃ c, carriedTo a bs 0x0E = some c ∧ c.getLsbD 5 = true := by
    subst hmid
    cases carriedTo a bs 0x0E with
    | none => simp
    | some c => simpa using statusAfter_control_bsy (statusByte image) c
  cases carriedTo a bs 0x0F with
  | none => exact ⟨hstored, hbsy⟩
  | some b =>
    refine ⟨statusAfter_status_stored mid b, ?_⟩
    rw [← hbsy, bsy_iff, bsy_iff]
    exact not_congr (statusAfter_status_bsy mid b ▸ Iff.rfl)

/-- A transfer on a quiet access, register by register: off the status register the byte it carries or what was there,
on it what `statusByte_after_chipWrite` says. -/
theorem transportWrite_quiet {s : State} (hquiet : s.access = .quiet) {a : Nat} {bs : List Byte}
    (hfits : a + bs.length ≤ 0x13) : ∃ old new,
      (∀ b, b ≠ 0x0F → chipByte (s.transportWrite a bs).chip b = (carriedTo a bs b).or (chipByte s.chip b)) ∧
      chipByte s.chip 0x0F = some old ∧ chipByte (s.transportWrite a bs).chip 0x0F = some new ∧
      new &&& 0xFB = ((carriedTo a bs 0x0F).getD old) &&& 0xFB ∧
      (new.getLsbD 2 = true ↔
        old.getLsbD 2 = true ∨ ∃ c, carriedTo a bs 0x0E = some c ∧ c.getLsbD 5 = true) := by
  rw [transportWrite_chip_of_quiet hquiet]
  exact ⟨statusByte s.chip, statusByte (chipWrite s.chip a bs), fun b hb => chipByte_chipWrite bs s.chip a b hfits hb,
    chipByte_status _, chipByte_status _, statusByte_after_chipWrite s.chip a bs⟩

/-- A write that is performed is one transfer. It leaves the host's reads as they were, but for a date block, which
makes the reads of its registers stale (41_datetime.md R141). -/
theorem step_write {s : State} {addr : Byte} {bs : List Byte} {vs : List Operand} {p : PackedDate} {x : String}
    {dateBlock : Bool} (hline : s.atLine (.wr addr vs)) (hfits : addr.toNat + bs.length ≤ 0x13)
    (hbytes : dateBlock = false → operandValues s.names vs = .next (bs.map fun b => (b.toNat : Int)) ∧
      dateBlockOf s.names addr vs = none ∧ allKeepProtected s.lastRead addr.toNat bs = true)
    (hdate : dateBlock = true → addr = 0x00 ∧ vs = [.name x] ∧
      s.names.lookup x = some (.response (.ok (.registers p))) ∧ bs = p.bytes) :
    ∃ r, step s = .next (((s.transportWrite addr.toNat bs).setLastRead r).nextLine) ∧
      ∀ a : Nat, r[a]? = if dateBlock = true ∧ a < 7 then some none else s.lastRead[a]? := by
  cases dateBlock with
  | false =>
    obtain ⟨hvals, hblock, hkeeps⟩ := hbytes rfl
    refine ⟨s.lastRead, ?_, fun a => by simp⟩
    rw [step_write_bytes hline hvals hblock, hostWriteBytes_of_keeps hfits hkeeps]
    rfl
  | true =>
    obtain ⟨rfl, rfl, hx, rfl⟩ := hdate rfl
    refine ⟨_, step_write_dateBlock hline hx, fun a => ?_⟩
    have hreads := forgetDateBlock_lastRead (s.transportWrite 0x00 p.bytes) a
    simpa [State.forgetDateBlock] using hreads

/-- Settles O56: every write performed is one transfer, of which the chip's laws say what it stores. -/
theorem writeStoresRegisters : Obligations.WriteStoresRegisters := by
  intro s addr bs vs p x dateBlock hline hfits hbytes hdate
  obtain ⟨r, hstep, hreads⟩ := step_write hline hfits hbytes hdate
  refine ⟨_, hstep, fun hbus => ?_, fun data reached hbus => ?_, fun hquiet => transportWrite_quiet hquiet hfits,
    hreads, ?_⟩
  · simp [hbus, transferWrite]
  · simp [hbus, transferWrite]
  · obtain ⟨hreq, -, -⟩ := hline
    simp [hreq]

/-! ### Protected bits -/

/-- A transfer keeps the protected bits when each of its bytes does. -/
theorem keepsProtected_of_allKeepProtected {r : Vector (Option Byte) 19} {bs : List Byte} :
    ∀ {a : Nat}, allKeepProtected r a bs = true → ∀ {k : Nat} {b : Byte}, bs[k]? = some b →
      keepsProtected r (a + k) b = true := by
  induction bs with
  | nil => intro a _ k b hk; simp at hk
  | cons v bs ih =>
    intro a h k b hk
    obtain ⟨hv, hbs⟩ := Bool.and_eq_true_iff.mp h
    cases k with
    | zero =>
      rw [List.getElem?_cons_zero, Option.some_inj] at hk
      exact hk ▸ hv
    | succ k =>
      have := ih hbs (List.getElem?_cons_succ ▸ hk)
      rwa [Nat.add_right_comm] at this

/-- A byte keeps the protected bits of its register when it keeps each protected field of it. -/
theorem keepsProtected_iff (r : Vector (Option Byte) 19) (a : Nat) (new : Byte) : keepsProtected r a new = true ↔
    ∀ f : ChipField, f.isProtected = true → f.row.reg.address = a → keepsField (Option.join r[a]?) new f = true := by
  simp [keepsProtected, List.all_eq_true, mem_all, or_iff_not_imp_left]

/-- A byte keeps a field when it carries the bits of the read there was (70_reset_and_hazards.md R237). -/
theorem keepsField_iff (last : Option Byte) (new : Byte) (f : ChipField) :
    keepsField last new f = true ↔ ∃ old, last = some old ∧ old &&& f.mask = new &&& f.mask := by
  cases last <;> simp [keepsField]

/-- Agreement on a mask is agreement on each part of it. -/
theorem agreeOn_or (m n a b : Byte) : agreeOn (m ||| n) a b ↔ agreeOn m a b ∧ agreeOn n a b := by
  unfold agreeOn
  refine ⟨fun h => ?_, fun ⟨hm, hn⟩ => by rw [BitVec.and_or_distrib_left, hm, hn, BitVec.and_or_distrib_left]⟩
  have part : ∀ k : Byte, (m ||| n) &&& k = k → a &&& k = b &&& k := fun k hk => by
    rw [← hk, ← BitVec.and_assoc, h, BitVec.and_assoc]
  exact ⟨part m (by ext i; cases hm : m[i] <;> simp [hm]), part n (by ext i; cases hn : n[i] <;> simp [hn])⟩

/-- The protected fields of the status register are OSF, its unused bits and BSY (20_memory.md R43). -/
theorem protected_status_iff (f : ChipField) :
    (f.isProtected = true ∧ f.row.reg.address = 0x0F) ↔ f = .OSF ∨ f = .ST_RSV ∨ f = .BSY := by
  cases f <;> decide

/-- A byte keeps the protected bits of the status register when it carries bits 7:4 and 2 as they were read. -/
theorem keepsProtected_status {r : Vector (Option Byte) 19} {old : Byte} (new : Byte)
    (hread : r[0x0F]? = some (some old)) : keepsProtected r 0x0F new = true ↔ agreeOn 0xF4 old new := by
  have hmask : agreeOn 0xF4 old new ↔
      agreeOn ChipField.OSF.mask old new ∧ agreeOn ChipField.ST_RSV.mask old new ∧
        agreeOn ChipField.BSY.mask old new := by
    rw [← agreeOn_or, ← agreeOn_or]
    rfl
  have hfield : ∀ f : ChipField, keepsField (Option.join r[0x0F]?) new f = true ↔ agreeOn f.mask old new := by
    intro f
    rw [keepsField_iff, hread]
    simp [agreeOn]
  simp only [keepsProtected_iff, hfield, hmask, ← and_imp, protected_status_iff]
  simp only [or_imp, forall_and, forall_eq]

/-- A byte that changes a protected field against the host's latest read is refused. -/
theorem not_allKeepProtected {r : Vector (Option Byte) 19} {a k : Nat} {bs : List Byte} {f : ChipField} {new : Byte}
    (hf : f.isProtected = true) (hk : bs[k]? = some new) (haddr : f.row.reg.address = a + k)
    (hdiff : ∀ old, r[a + k]? = some (some old) → old &&& f.mask ≠ new &&& f.mask) :
    ¬allKeepProtected r a bs = true := by
  intro hall
  have hkeep := (keepsProtected_iff r _ new).mp (keepsProtected_of_allKeepProtected hall hk) f hf haddr
  obtain ⟨old, hlast, hsame⟩ := (keepsField_iff _ _ _).mp hkeep
  exact hdiff old (Option.join_eq_some_iff.mp hlast) hsame

/-- Settles O58: a write is refused where one byte does not keep a protected field, and a status write that keeps them
stores what the status register takes of it. -/
theorem statusWriteKeepsProtectedBits : Obligations.StatusWriteKeepsProtectedBits := by
  refine ⟨fun s addr vs bs f k new hline hvals hblock hfits hf hk haddr hdiff => ?_,
    fun s vs old new hline hvals hread => ?_⟩
  · rw [step_write_bytes hline hvals hblock, hostWriteBytes_of_not_keeps hfits (not_allKeepProtected hf hk haddr hdiff)]
  · have hstep : step s = hostWriteBytes 0x0F [new] s :=
      step_write_bytes hline hvals (dateBlockOf_ne_zero _ _ (by decide))
    have hkeeps : allKeepProtected s.lastRead 0x0F [new] = true ↔ agreeOn 0xF4 old new := by
      rw [← keepsProtected_status new hread, allKeepProtected, allKeepProtected, Bool.and_true]
    have hfits : (0x0F : Byte).toNat + [new].length ≤ 0x13 := by
      show 15 + 1 ≤ 19
      decide
    refine ⟨fun hdiff => ?_, fun hsame hquiet => ?_⟩
    · rw [hstep, hostWriteBytes_of_not_keeps hfits (mt hkeeps.mp hdiff)]
    · refine ⟨_, statusByte s.chip, statusAfter (statusByte s.chip) 0x0F new,
        hstep.trans (hostWriteBytes_of_keeps hfits (hkeeps.mpr hsame)), chipByte_status _, ?_,
        statusAfter_status_stored _ _, statusAfter_status_bsy _ _⟩
      rw [nextLine_chip, transportWrite_chip_of_quiet hquiet, chipByte_status, chipWrite, chipWrite]
      exact congrArg some (statusByte_chipStore s.chip 0x0F new)

end Sys2Proof.Machine
end

section
/-! Proofs: frames. Decoder and encoder are inverse to each other (30_encoding.md R60 to R68), what a frame is as a word
(R62), and what the block does at an undefined OP and at a truncated frame (R66, R69). -/

namespace Sys2Proof.Machine

/-! ### The decoder, opcode by opcode -/

/-- What the decoder reads after the OP byte of an operation (30_encoding.md R62). -/
def decodeOperands : Opcode → List Byte → Fetched
  | .bcdEnc => decodeV
  | .bcdDec => decodeN
  | .dtDec => decodeP7
  | .dtEnc => decodeCT
  | .fldGet => decodeBM
  | .fldSet => decodeBMV

theorem decode_of_opcode {op : Byte} {o : Opcode} (h : opcodeOf op = some o) (bs : List Byte) :
    decode (op :: bs) = decodeOperands o bs := by
  rw [decode, h]
  cases o <;> rfl

theorem decode_of_undefined {op : Byte} (h : opcodeOf op = none) (bs : List Byte) :
    decode (op :: bs) = .illegal op bs := by
  rw [decode, h]

/-- 30_encoding.md R66: the undefined OP values are those the opcode table does not list. -/
theorem opcodeOf_eq_none_iff (op : Byte) :
    opcodeOf op = none ↔ op ∉ ([0x01, 0x02, 0x10, 0x11, 0x20, 0x21] : List Byte) := by
  unfold opcodeOf
  split_ifs <;> simp_all

/-- The bytes of V are those it was read from (30_encoding.md R64). -/
theorem operandBytes_signedV (hi lo : Byte) : operandBytes (.bcdEnc (signedV hi lo)) = [hi, lo] := by
  rw [operandBytes, signedV, BitVec.ofInt_toInt, highByte_halfOf, lowByte_halfOf]

theorem vInPort_iff (v : Int) : vInPort v = true ↔ -32768 ≤ v ∧ v ≤ 32767 := by simp [vInPort]

/-- V of two bytes is always one its port carries (30_encoding.md R63). -/
theorem vInPort_signedV (hi lo : Byte) : vInPort (signedV hi lo) = true := by
  have hlo := BitVec.le_toInt (halfOf hi lo)
  have hhi := BitVec.toInt_lt (x := halfOf hi lo)
  norm_num at hlo hhi
  exact (vInPort_iff _).mpr ⟨hlo, Int.le_sub_one_of_lt hhi⟩

/-- What is read after an OP byte is a well-formed instruction of that operation, and its operand bytes stood there. -/
theorem decodeOperands_request {o : Opcode} {bs : List Byte} {i : Instr} {rest : List Byte}
    (h : decodeOperands o bs = .request i rest) : i.WellFormed ∧ i.opcode = o ∧ bs = operandBytes i ++ rest := by
  cases o with
  | bcdEnc =>
    rw [decodeOperands, decodeV.eq_def] at h
    split at h <;> cases h
    exact ⟨vInPort_signedV _ _, rfl, by rw [operandBytes_signedV]; rfl⟩
  | bcdDec =>
    rw [decodeOperands, decodeN.eq_def] at h
    split at h <;> cases h
    exact ⟨rfl, rfl, by rw [operandBytes, tensOf_append_onesOf]; rfl⟩
  | dtDec =>
    rw [decodeOperands, decodeP7.eq_def] at h
    split at h <;> cases h
    exact ⟨rfl, rfl, rfl⟩
  | dtEnc =>
    rw [decodeOperands, decodeCT.eq_def] at h
    split at h <;> cases h
    exact ⟨rfl, rfl, by rw [operandBytes, CalendarTime.bytes, highByte_halfOf, lowByte_halfOf]; rfl⟩
  | fldGet =>
    rw [decodeOperands, decodeBM.eq_def] at h
    split at h <;> cases h
    exact ⟨rfl, rfl, rfl⟩
  | fldSet =>
    rw [decodeOperands, decodeBMV.eq_def] at h
    split at h <;> cases h
    exact ⟨rfl, rfl, rfl⟩

/-- Only an OP byte of the table begins a frame that is read as an instruction. -/
theorem decode_cons_request {op : Byte} {bs : List Byte} {i : Instr} {rest : List Byte}
    (h : decode (op :: bs) = .request i rest) :
    i.WellFormed ∧ op = opcodeByte i.opcode ∧ bs = operandBytes i ++ rest := by
  cases ho : opcodeOf op with
  | none => rw [decode_of_undefined ho] at h; cases h
  | some o =>
    rw [decode_of_opcode ho] at h
    obtain ⟨hwf, rfl, hbs⟩ := decodeOperands_request h
    exact ⟨hwf, opcodeByte_of_opcodeOf ho, hbs⟩

/-- Settles O2: `decode_encode_append`, format by format. -/
theorem decodeOfEncode : Obligations.DecodeOfEncode := fun _ rest h => decode_encode_append h rest

/-- Settles O3: the OP byte is the instruction's own, and the bytes after it are its operand bytes. -/
theorem encodeOfDecode : Obligations.EncodeOfDecode := by
  intro bs i rest h
  cases bs with
  | nil => cases h
  | cons op bs =>
    obtain ⟨hwf, rfl, rfl⟩ := decode_cons_request h
    exact ⟨hwf, rfl⟩

/-! ### Frame lengths -/

/-- The frame of every instruction has the form that its OP byte fixes (30_encoding.md R69). -/
theorem frameForm (i : Instr) : Laws.FrameForm.Statement i := by
  cases i with
  | bcdEnc v => exact Laws.FrameForm.bcdEnc v
  | bcdDec t o => exact Laws.FrameForm.bcdDec t o
  | dtDec p => exact Laws.FrameForm.dtDec p
  | dtEnc t => exact Laws.FrameForm.dtEnc t
  | fldGet b m => exact Laws.FrameForm.fldGet b m
  | fldSet b m v => exact Laws.FrameForm.fldSet b m v

theorem frameLength_of_undefined {op : Byte} (h : opcodeOf op = none) : frameLength op = 1 := by
  rw [frameLength, h]

/-- After an OP byte the decoder lacks bytes exactly where fewer than the operands' are there. -/
theorem decodeOperands_truncated_iff (o : Opcode) (bs : List Byte) :
    decodeOperands o bs = .truncated ↔ bs.length + 1 < frameLength (opcodeByte o) := by
  cases o with
  | bcdEnc =>
    show decodeV bs = _ ↔ bs.length + 1 < 3
    rcases bs with _ | ⟨_, _ | ⟨_, bs⟩⟩ <;> simp [decodeV]
  | bcdDec =>
    show decodeN bs = _ ↔ bs.length + 1 < 2
    rcases bs with _ | ⟨_, bs⟩ <;> simp [decodeN]
  | dtDec =>
    show decodeP7 bs = _ ↔ bs.length + 1 < 8
    rcases bs with _ | ⟨_, _ | ⟨_, _ | ⟨_, _ | ⟨_, _ | ⟨_, _ | ⟨_, _ | ⟨_, bs⟩⟩⟩⟩⟩⟩⟩ <;> simp [decodeP7]
  | dtEnc =>
    show decodeCT bs = _ ↔ bs.length + 1 < 9
    rcases bs with _ | ⟨_, _ | ⟨_, _ | ⟨_, _ | ⟨_, _ | ⟨_, _ | ⟨_, _ | ⟨_, _ | ⟨_, bs⟩⟩⟩⟩⟩⟩⟩⟩ <;> simp [decodeCT]
  | fldGet =>
    show decodeBM bs = _ ↔ bs.length + 1 < 3
    rcases bs with _ | ⟨_, _ | ⟨_, bs⟩⟩ <;> simp [decodeBM]
  | fldSet =>
    show decodeBMV bs = _ ↔ bs.length + 1 < 4
    rcases bs with _ | ⟨_, _ | ⟨_, _ | ⟨_, bs⟩⟩⟩ <;> simp [decodeBMV]

theorem decode_truncated_iff (op : Byte) (bs : List Byte) :
    decode (op :: bs) = .truncated ↔ bs.length + 1 < frameLength op := by
  cases ho : opcodeOf op with
  | none => simp [decode_of_undefined ho, frameLength_of_undefined ho]
  | some o =>
    rw [decode_of_opcode ho, decodeOperands_truncated_iff, ← opcodeByte_of_opcodeOf ho]

/-- 30_encoding.md R69: a truncated frame at the request port is refused. -/
theorem step_of_truncated {s : State} {op : Byte} {bs : List Byte} (hreq : s.request = op :: bs)
    (h : decode (op :: bs) = .truncated) : step s = .refused .truncatedFrame := by
  rw [step_of_request (by simp [hreq]), blockStep, hreq, h]

/-- Settles O4: a frame read as an instruction is its encoding, which has the length its OP byte fixes. -/
theorem lengthFixedByOp : Obligations.LengthFixedByOp := by
  refine ⟨fun op => ?_, decode_truncated_iff, fun op bs rest i h => ?_, fun op op' bs rest h => ?_,
    fun s op bs hreq hlt => step_of_truncated hreq ((decode_truncated_iff op bs).mpr hlt)⟩
  · unfold frameLength opcodeOf
    split_ifs <;> rfl
  · obtain ⟨-, rfl, rfl⟩ := decode_cons_request h
    obtain ⟨-, hlen⟩ := frameForm i
    rw [← hlen]
    exact List.drop_left.symm
  · obtain ⟨hcons, hop⟩ := decode_illegal h
    injection hcons with hop' hbs
    subst hop' hbs
    exact ⟨rfl, by rw [frameLength_of_undefined hop]; rfl⟩

/-! ### Frames as words -/

/-- A 16-bit port field is its high byte and its low byte (20_memory.md R45(c)). -/
theorem halfOf_toNat (hi lo : Byte) : (halfOf hi lo).toNat = hi.toNat * 256 + lo.toNat := by
  rw [halfOf, BitVec.toNat_append, ← Nat.shiftLeft_add_eq_or_of_lt lo.isLt, Nat.shiftLeft_eq]

/-- The two bytes of a 16-bit port field make it up. -/
theorem highByte_lowByte_toNat (h : Half) : (highByte h).toNat * 256 + (lowByte h).toNat = h.toNat := by
  rw [← halfOf_toNat, halfOf_high_low]

theorem nibbles_toNat (t o : Nibble) : (t ++ o : BitVec 8).toNat = t.toNat * 16 + o.toNat := by
  rw [BitVec.toNat_append, ← Nat.shiftLeft_add_eq_or_of_lt o.isLt, Nat.shiftLeft_eq]

theorem frameWord_cons (b : Byte) (bs : List Byte) :
    frameWord (b :: bs) = b.toNat * 256 ^ bs.length + frameWord bs := by
  induction bs using List.reverseRecOn with
  | nil => simp [frameWord]
  | append_singleton bs c ih =>
    have hsnoc : ∀ ds : List Byte, frameWord (ds ++ [c]) = frameWord ds * 256 + c.toNat := fun ds => by
      simp [frameWord]
    rw [← List.cons_append, hsnoc, hsnoc, ih, List.length_append, List.length_singleton, pow_succ]
    ring

theorem frameWord_lt (bs : List Byte) : frameWord bs < 256 ^ bs.length := by
  induction bs with
  | nil => simp [frameWord]
  | cons b bs ih =>
    have hb : (b.toNat + 1) * 256 ^ bs.length ≤ 256 * 256 ^ bs.length := Nat.mul_le_mul_right _ b.isLt
    rw [frameWord_cons, List.length_cons, pow_succ']
    linarith

/-- The bytes behind the first n of a frame are the lowest digits of its word. -/
theorem frameWord_append (pre post : List Byte) :
    frameWord (pre ++ post) = frameWord pre * 256 ^ post.length + frameWord post := by
  induction pre with
  | nil => simp [frameWord]
  | cons b pre ih =>
    rw [List.cons_append, frameWord_cons, frameWord_cons, ih, List.length_append, pow_add]
    ring

/-- 30_encoding.md R60: the bits that bytes of a frame stand at, in its word, are those bytes. -/
theorem wordField_frameWord {hi lo : Nat} (pre mid post : List Byte) (hlo : lo = 8 * post.length)
    (hhi : hi + 1 = lo + 8 * mid.length) (hmid : 0 < mid.length) :
    wordField (frameWord (pre ++ (mid ++ post))) hi lo = frameWord mid := by
  have hpow : ∀ n : Nat, 2 ^ (8 * n) = 256 ^ n := fun n => by rw [pow_mul]; norm_num
  have hwidth : hi - lo + 1 = 8 * mid.length := by omega
  have hword : frameWord (pre ++ (mid ++ post)) =
      frameWord post + (frameWord mid + frameWord pre * 256 ^ mid.length) * 256 ^ post.length := by
    rw [frameWord_append, frameWord_append, List.length_append, pow_add]
    ring
  rw [wordField, hwidth, hlo, Nat.shiftRight_eq_div_pow, hpow, hpow, hword, Nat.add_mul_div_right _ _ (by positivity),
    Nat.div_eq_of_lt (frameWord_lt post), Nat.zero_add, Nat.add_mul_mod_self_right, Nat.mod_eq_of_lt (frameWord_lt mid)]

theorem frameWord_singleton (b : Byte) : frameWord [b] = b.toNat := by simp [frameWord]

theorem wordField_byte {hi lo : Nat} (pre : List Byte) (b : Byte) (post : List Byte) (hlo : lo = 8 * post.length)
    (hhi : hi + 1 = lo + 8) : wordField (frameWord (pre ++ ([b] ++ post))) hi lo = b.toNat :=
  (wordField_frameWord pre [b] post hlo hhi Nat.one_pos).trans (frameWord_singleton b)

/-- A 16-bit operand at the end of a frame is the lowest two bytes of its word. -/
theorem wordField_half (pre : List Byte) (hi lo : Byte) :
    wordField (frameWord (pre ++ [hi, lo])) 15 0 = (halfOf hi lo).toNat :=
  (wordField_frameWord pre [hi, lo] [] rfl rfl Nat.two_pos).trans (by simp [frameWord, halfOf_toNat])

theorem frameWord_bcdDec (t o : Nibble) :
    frameWord (encode (.bcdDec t o)) = 0x02 * 256 + (t.toNat * 16 + o.toNat) := by
  rw [encode, operandBytes, frameWord_cons, frameWord_singleton, nibbles_toNat]
  rfl

/-- Settles O5: each operand's bytes stand in the frame at those bits, and a 16-bit one is its two bytes. -/
theorem wordFieldsOfFrames : Obligations.WordFieldsOfFrames := by
  refine ⟨fun hi lo => ⟨wordField_byte [] _ [_, _] rfl rfl, wordField_half [_] hi lo⟩, fun t o => ?_,
    fun p => ⟨wordField_byte [] _ p.bytes rfl rfl, fun i hi => ?_⟩, fun t => ?_,
    fun b m => ⟨wordField_byte [] _ [b, m] rfl rfl, wordField_byte [_] b [m] rfl rfl, wordField_byte [_, b] m [] rfl rfl⟩,
    fun b m v => ⟨wordField_byte [] _ [b, m, v] rfl rfl, wordField_byte [_] b [m, v] rfl rfl,
      wordField_byte [_, b] m [v] rfl rfl, wordField_byte [_, b, m] v [] rfl rfl⟩⟩
  · have ht := t.isLt
    have ho := o.isLt
    simp only [wordField, Nat.shiftRight_eq_div_pow, frameWord_bcdDec]
    omega
  · have hlen : p.bytes.length = 7 := rfl
    rw [← hlen] at hi
    have hsplit : encode (.dtDec p) = (0x10 :: p.bytes.take i) ++ ([p.bytes[i]] ++ p.bytes.drop (i + 1)) := by
      rw [List.cons_append, List.singleton_append, List.getElem_cons_drop, List.take_append_drop]
      rfl
    rw [List.getElem?_eq_getElem hi, hsplit, wordField_byte _ _ _ (by rw [List.length_drop]; omega) (by omega)]
    rfl
  · have hyear := wordField_half [opcodeByte .dtEnc, t.second, t.minute, t.hour, t.weekday, t.day, t.month]
      (highByte t.year) (lowByte t.year)
    rw [halfOf_high_low] at hyear
    exact ⟨wordField_byte [] _ t.bytes rfl rfl, wordField_byte [_] _ (t.bytes.drop 1) rfl rfl,
      wordField_byte [_, _] _ (t.bytes.drop 2) rfl rfl, wordField_byte [_, _, _] _ (t.bytes.drop 3) rfl rfl,
      wordField_byte [_, _, _, _] _ (t.bytes.drop 4) rfl rfl, wordField_byte [_, _, _, _, _] _ (t.bytes.drop 5) rfl rfl,
      wordField_byte [_, _, _, _, _, _] _ (t.bytes.drop 6) rfl rfl, hyear⟩

/-! ### Operands -/

/-- FMT_V's integer (30_encoding.md R64): two's complement, so the high byte's top bit takes 65536 off. -/
theorem signedV_eq (hi lo : Byte) : signedV hi lo =
    if hi.toNat < 128 then (hi.toNat * 256 + lo.toNat : Int) else (hi.toNat * 256 + lo.toNat : Int) - 65536 := by
  have hlo := lo.isLt
  rw [signedV, BitVec.toInt_eq_toNat_cond, halfOf_toNat]
  split_ifs <;> push_cast <;> omega

theorem tensOf_toNat (b : Byte) : (tensOf b).toNat = bits b 7 4 := BitVec.extractLsb'_toNat ..

theorem onesOf_toNat (b : Byte) : (onesOf b).toNat = bits b 3 0 := BitVec.extractLsb'_toNat ..

/-- Settles O6: the decoder's six formats, and what each of its operand readers gives as a number. -/
theorem operandAssembly : Obligations.OperandAssembly :=
  ⟨fun hi lo _ => ⟨signedV hi lo, rfl, signedV_eq hi lo⟩,
    fun b _ => ⟨tensOf b, onesOf b, rfl, tensOf_toNat b, onesOf_toNat b⟩,
    fun _ _ _ _ _ _ yh yl _ => ⟨halfOf yh yl, rfl, halfOf_toNat yh yl⟩, fun _ _ => rfl, fun _ _ _ => rfl,
    fun _ _ _ _ => rfl⟩

/-- Settles O1: the decoder computes on each of the words. -/
theorem framesOfTheSpecDecode : Obligations.FramesOfTheSpecDecode := by
  unfold Obligations.FramesOfTheSpecDecode
  decide

/-! ### Undefined OP bytes, response frames -/

/-- Settles O8: an undefined OP byte is read as illegal, and the block raises E_OP. -/
theorem undefinedOpAnswersEOp : Obligations.UndefinedOpAnswersEOp := by
  intro op rest s hop hreq
  rw [step_of_request (by simp [hreq]), blockStep, hreq, decode_of_undefined ((opcodeOf_eq_none_iff op).mpr hop)]
  rfl

/-- An error's response frame is its code, never that of OK, and its INFO byte (30_encoding.md R67). -/
theorem error_frame (e : CodecError) :
    (Response.error e).frame = [e.code.status, e.info] ∧ e.code.status ≠ 0x00 := by
  refine ⟨rfl, ?_⟩
  cases e.code <;> decide

/-- A codec's response is its one error or its one value, framed as such (30_encoding.md R67). -/
theorem codecResponse_frame {α : Type} (x : Except CodecError α) (f : α → Result) :
    let r := responseFrom (x.map f)
    (∃ e, r = .error e ∧ r.frame = [e.code.status, e.info] ∧ e.code.status ≠ 0x00) ∨
      ∃ a, r = .ok (f a) ∧ r.frame = 0x00 :: (f a).bytes := by
  cases x with
  | error e => exact .inl ⟨e, rfl, error_frame e⟩
  | ok a => exact .inr ⟨a, rfl, rfl⟩

/-- Settles O42: each operation's response is its codec's, and the kind of its value names the result bytes. -/
theorem responseFrames : Obligations.ResponseFrames := by
  refine ⟨rfl, fun op rest s hop hreq => by rw [undefinedOpAnswersEOp op rest s hop hreq]; rfl, fun i s r h => ?_⟩
  rw [responseOf_exec] at h
  cases h
  cases i with
  | bcdEnc v => exact codecResponse_frame (bcdEnc v) .byte
  | bcdDec t o => exact codecResponse_frame (.ok (bcdDec t o)) .value
  | dtDec p => exact codecResponse_frame (dtDec s.epochBase s.hour12Policy p) .calendar
  | dtEnc t => exact codecResponse_frame (dtEnc s.epochBase t) .registers
  | fldGet b m => exact codecResponse_frame (fldGet b m) .value
  | fldSet b m v => exact codecResponse_frame (fldSet b m v) .byte

end Sys2Proof.Machine
end

section
/-! Proofs: how a host program is read. The pseudo-instructions (30_encoding.md R71), operands and conditions, control
flow and host integers (R70). -/

namespace Sys2Proof.Machine

/-! ### Pseudo-instructions -/

theorem bcdDecb_assembles (p : Byte) : assemble .bcdDecb [(p.toNat : Int)] = .next (.bcdDec (tensOf p) (onesOf p)) := by
  rw [assemble, assembleBcdDecb, show [(p.toNat : Int)] = [p].map fun b => (b.toNat : Int) from rfl,
    byteOperands_of_bytes, andThen_of_next]

theorem fldClr_assembles (b m : Byte) : assemble .fldClr [(b.toNat : Int), m.toNat] = .next (.fldSet b m 0) := by
  rw [assemble, assembleFldClr, show [(b.toNat : Int), m.toNat] = [b, m].map fun b => (b.toNat : Int) from rfl,
    byteOperands_of_bytes, andThen_of_next]

theorem fldFill_assembles (b m : Byte) : assemble .fldFill [(b.toNat : Int), m.toNat] =
    if contiguous m then .next (.fldSet b m (m >>> ctz m)) else .refused .illegalPseudo := by
  rw [assemble, assembleFldFill, show [(b.toNat : Int), m.toNat] = [b, m].map fun b => (b.toNat : Int) from rfl,
    byteOperands_of_bytes, andThen_of_next]

/-- No bit of a mask is below its lowest one, so moving them down and up again loses none. -/
theorem shiftRight_shiftLeft_ctz : ∀ m : Byte, m >>> ctz m <<< ctz m = m := by decide

/-- Packing all ones into a field sets its bits and no other (42_field.md R161). -/
theorem packField_ones (b m : Byte) : packField b m (m >>> ctz m) = b ||| m := by
  rw [packField, shiftRight_shiftLeft_ctz]
  ext i
  simp only [BitVec.getElem_or, BitVec.getElem_and, BitVec.getElem_not]
  cases m[i] <;> simp

/-- The mask moved down is the greatest value its field takes, so FLD.SET takes it (42_field.md R161, R162). -/
theorem fldSet_ones {m : Byte} (b : Byte) (h : contiguous m = true) : fldSet b m (m >>> ctz m) = .ok (b ||| m) := by
  obtain ⟨-, hones⟩ : m ≠ 0 ∧ m.toNat >>> ctz m = 2 ^ popcount m - 1 := by simpa [contiguous] using h
  have hfits : ¬(m >>> ctz m).toNat > 2 ^ popcount m - 1 := by
    rw [BitVec.toNat_ushiftRight, hones]
    exact lt_irrefl _
  rw [fldSet, if_pos h, if_neg hfits, packField_ones]

theorem fldSet_of_not_contiguous {m : Byte} (b v : Byte) (h : contiguous m = false) :
    fldSet b m v = .error maskError := by
  rw [fldSet, h]
  rfl

/-- Settles O11: the one request each pseudo-instruction assembles to, and what FLD.SET answers to FLD.FILL's. -/
theorem pseudoInstructionsExpand : Obligations.PseudoInstructionsExpand := by
  refine ⟨fun p => ⟨_, bcdDecb_assembles p, ?_⟩, fun b m => ⟨_, fldClr_assembles b m, rfl⟩,
    fun b m s h => ⟨_, (fldFill_assembles b m).trans (if_pos h), rfl, ?_⟩, fun b m v s h => ⟨?_, ?_⟩⟩
  · rw [encode, operandBytes, tensOf_append_onesOf]
    rfl
  · rw [exec_eq_respond, execResponse, execResult, fldSet_ones b h]
    rfl
  · rw [fldFill_assembles, h]
    rfl
  · rw [exec_eq_respond, execResponse, execResult, fldSet_of_not_contiguous b v h]
    rfl

/-! ### Operands and conditions -/

/-- The values of a line stand in the order of its operands. -/
theorem operandValues_append {ns : Names} {os us : List Operand} {vs ws : List Int}
    (hos : operandValues ns os = .next vs) (hus : operandValues ns us = .next ws) :
    operandValues ns (os ++ us) = .next (vs ++ ws) := by
  induction os generalizing vs with
  | nil => cases hos; exact hus
  | cons o os ih =>
    obtain ⟨as, has, hos⟩ := andThen_next hos
    obtain ⟨bs, hbs, hcat⟩ := andThen_next hos
    cases hcat
    simp only [List.cons_append, operandValues, has, andThen_of_next, ih hbs, List.append_assoc]

theorem operandValues_singleton {ns : Names} {o : Operand} {vs : List Int} (h : o.values ns = .next vs) :
    operandValues ns [o] = .next vs := by
  simp only [operandValues, h, andThen_of_next, List.append_nil]

section BoundName

variable {ns : Names} {x : String} {v : HostValue} (hx : ns.lookup x = some v)

include hx

theorem lookupName_bound : lookupName ns x = .next v := by rw [lookupName, hx]

theorem name_values_bound {vs : List Int} (h : valuesOf x v = .next vs) : operandValues ns [.name x] = .next vs :=
  operandValues_singleton (by rw [Operand.values, lookupName_bound hx, andThen_of_next, h])

theorem part_values_bound {c : CalendarPart} {n : Int} (h : partOf x c v = .next n) :
    operandValues ns [.part x c] = .next [n] :=
  operandValues_singleton (by rw [Operand.values, lookupName_bound hx, andThen_of_next, h, andThen_of_next])

theorem byteOf_values_bound {k : Nat} {n : Int} (h : readByteOf x k v = .next n) :
    operandValues ns [.byteOf x k] = .next [n] :=
  operandValues_singleton (by rw [Operand.values, lookupName_bound hx, andThen_of_next, h, andThen_of_next])

/-- The three comparisons read one number of the bound value. -/
theorem compare_holds_bound {k : Int} (h : comparedValue x v = .next k) (n : Int) :
    (Cond.eq x n).holds ns = .next (decide (k = n)) ∧ (Cond.ne x n).holds ns = .next (decide (k ≠ n)) ∧
      (Cond.lt x n).holds ns = .next (decide (k < n)) := by
  simp only [Cond.holds, lookupName_bound hx, andThen_of_next, h, and_self]

theorem status_holds_bound {b : Bool} (h : statusIsOk x v = .next b) :
    (Cond.statusOk x).holds ns = .next b ∧ (Cond.statusNotOk x).holds ns = .next !b := by
  simp only [Cond.holds, lookupName_bound hx, andThen_of_next, h, and_self]

end BoundName

/-- STATUS(name) is OK exactly where the response's STATUS byte is 0x00 (60_exceptions.md R201). -/
theorem statusIsOk_response (x : String) (r : Response) :
    statusIsOk x (.response r) = .next (decide (r.status = 0x00)) := by
  cases r with
  | ok v => rfl
  | error e =>
    obtain ⟨-, hstatus⟩ := error_frame e
    rw [Response.status, decide_eq_false hstatus]
    rfl

/-- Settles O53: what each kind of bound value gives as operand and in a comparison, read through the bound name. -/
theorem operandsAndConditionsRead : Obligations.OperandsAndConditionsRead := by
  intro ns
  refine ⟨fun v => rfl, fun f => rfl, fun x b hx => ?_,
    fun x k hx => ⟨name_values_bound hx rfl, compare_holds_bound hx rfl⟩, fun x p hx => name_values_bound hx rfl,
    fun x bs hx => ⟨name_values_bound hx rfl, fun k b hb => byteOf_values_bound hx ?_⟩, fun x t hx => ?_,
    fun x r hx => ?_, fun os us vs ws => operandValues_append⟩
  · rcases hx with hx | hx <;> exact ⟨name_values_bound hx rfl, compare_holds_bound hx rfl⟩
  · rw [readByteOf, hb]
    rfl
  · have hpart : ∀ c : CalendarPart, operandValues ns [.part x c] = .next [c.of t] := fun c =>
      part_values_bound hx rfl
    exact operandValues_append (hpart .second) <| operandValues_append (hpart .minute) <|
      operandValues_append (hpart .hour) <| operandValues_append (hpart .weekday) <|
      operandValues_append (hpart .day) <| operandValues_append (hpart .month) (hpart .year)
  · rw [decide_not]
    exact status_holds_bound hx (statusIsOk_response x r)

/-! ### Control flow -/

/-- A label that some line has marks such a line. -/
theorem labelLine_of_mem {l : String} {program : List HostLine} (h : HostLine.label l ∈ program) :
    ∃ n, labelLine l program = some n ∧ program[n]? = some (.label l) := by
  induction program with
  | nil => cases h
  | cons a rest ih =>
    by_cases ha : a = .label l
    · exact ⟨0, by rw [labelLine, if_pos ha], congrArg some ha⟩
    · obtain ⟨n, hn, hline⟩ := ih ((List.mem_cons.mp h).resolve_left (Ne.symm ha))
      exact ⟨n + 1, by rw [labelLine, if_neg ha, hn]; rfl, hline⟩

theorem labelLine_of_not_mem {l : String} {program : List HostLine} (h : HostLine.label l ∉ program) :
    labelLine l program = none := by
  induction program with
  | nil => rfl
  | cons a rest ih =>
    obtain ⟨ha, hrest⟩ := not_or.mp (mt List.mem_cons.mpr h)
    rw [labelLine, if_neg (Ne.symm ha), ih hrest]
    rfl

theorem hostGoto_of_mem {l : String} {s : State} (h : HostLine.label l ∈ s.program) :
    ∃ n, hostGoto l s = .next (s.setLine n) ∧ s.program[n]? = some (.label l) := by
  obtain ⟨n, hn, hline⟩ := labelLine_of_mem h
  exact ⟨n, by rw [hostGoto, hn], hline⟩

theorem hostGoto_of_not_mem {l : String} {s : State} (h : HostLine.label l ∉ s.program) :
    hostGoto l s = .refused (.noLabel l) := by
  rw [hostGoto, labelLine_of_not_mem h]

/-- A condition's `goto` is taken where it holds, and else the host goes on. -/
theorem step_ifGoto {s : State} {c : Cond} {l : String} {b : Bool} (hline : s.atLine (.ifGoto c l))
    (hc : c.holds s.names = .next b) : step s = if b then hostGoto l s else .next s.nextLine := by
  rw [step_of_atLine hline, hostLine, hc, andThen_of_next]

theorem step_ifStop {s : State} {c : Cond} {b : Bool} (hline : s.atLine (.ifStop c))
    (hc : c.holds s.names = .next b) : step s = .next (if b then s.setPhase .stopped else s.nextLine) := by
  rw [step_of_atLine hline, hostLine, hc, andThen_of_next]
  cases b <;> rfl

/-- A finished run does not move any more (70_reset_and_hazards.md R245). -/
theorem step_of_finished {s : State} (h : s.finished) : step s = .next s := by
  obtain ⟨hreq, hstopped | ⟨hphase, hpast⟩⟩ := h
  · rw [step_of_no_request hreq, hostStep, hstopped]
  · rw [step_of_no_request hreq, hostStep, hphase, List.getElem?_eq_none hpast]

/-- Settles O59: each line of control flow, through the line that its label marks. -/
theorem gotoContinuesAtLabel : Obligations.GotoContinuesAtLabel := by
  have stops : ∀ {s : State} {a : HostLine}, s.atLine a → (s.setPhase .stopped).finished :=
    fun ⟨hreq, _⟩ => ⟨hreq, .inl rfl⟩
  refine ⟨fun s l hline hmem => ?_, fun s l hline hmem => ?_,
    fun s l c hline => ⟨fun hc hmem => ?_, fun hc hmem => ?_, fun hc => step_ifGoto hline hc⟩,
    fun s l hline => step_of_atLine hline,
    fun s c hline => ⟨fun hc => ⟨step_ifStop hline hc, stops hline⟩, fun hc => step_ifStop hline hc⟩,
    fun s hline => ⟨step_of_atLine hline, stops hline⟩, fun s hreq hphase hpast => ⟨hreq, .inr ⟨hphase, hpast⟩⟩,
    fun s => step_of_finished⟩
  · rw [step_of_atLine hline]
    exact hostGoto_of_mem hmem
  · rw [step_of_atLine hline]
    exact hostGoto_of_not_mem hmem
  · rw [step_ifGoto hline hc]
    exact hostGoto_of_mem hmem
  · rw [step_ifGoto hline hc]
    exact hostGoto_of_not_mem hmem

/-! ### Host integers -/

/-- The frame of a line that binds one host integer and goes on. -/
theorem bind_int_nextLine {s : State} {a : HostLine} (hline : s.atLine a) (x : String) (n : Int) :
    let t := (s.bind (some x) (.int n)).nextLine
    t.names.lookup x = some (.int n) ∧ (∀ z, z ≠ x → t.names.lookup z = s.names.lookup z) ∧
      t.line = s.line + 1 ∧ t.chip = s.chip ∧ t.request = [] ∧ t.response = s.response := by
  obtain ⟨hreq, -, -⟩ := hline
  exact ⟨lookup_bind_self s x _, fun z hz => lookup_bind_other s _ fun h => hz (Option.some.inj h).symm, rfl, rfl, hreq,
    rfl⟩

/-- Settles O60: both assignments are one binding. -/
theorem hostIntegersAssigned : Obligations.HostIntegersAssigned := by
  refine fun s x y n k => ⟨fun hline => ⟨_, step_of_atLine hline, bind_int_nextLine hline x n⟩,
    fun hline hy => ⟨_, ?_, bind_int_nextLine hline x (k + n)⟩⟩
  rw [step_of_atLine hline, hostLine, hostAdd, lookupName_bound hy, andThen_of_next]

end Sys2Proof.Machine
end

section
/-! Proofs: the text form. What disassembly prints (30_encoding.md R72), and that the assembler (R70) reads it
back. -/

namespace Sys2Proof.Machine

/-! ### Digits and literals -/

theorem digitValue_digitChar_hex : ∀ n < 16, digitValue 16 (digitChar n) = some n := by decide

theorem digitValue_digitChar_decimal : ∀ n < 10, digitValue 10 (digitChar n) = some n := by decide

theorem isDigit_digitChar : ∀ n < 10, (digitChar n).isDigit = true := by decide

theorem numberFrom_append (base acc : Nat) (cs ds : List Char) :
    numberFrom base acc (cs ++ ds) = (numberFrom base acc cs).bind fun n => numberFrom base n ds := by
  induction cs generalizing acc with
  | nil => rfl
  | cons c cs ih =>
    simp only [List.cons_append, numberFrom]
    cases digitValue base c with
    | none => rfl
    | some d => exact ih _

theorem numberFrom_cons {base d : Nat} {c : Char} (h : digitValue base c = some d) (acc : Nat) (cs : List Char) :
    numberFrom base acc (c :: cs) = numberFrom base (acc * base + d) cs := by
  rw [numberFrom, h]

/-- The high hexadecimal digit of a byte. -/
theorem bits_high_nibble (b : Byte) : bits b 7 4 = b.toNat / 16 % 16 := by
  rw [bits, Nat.shiftRight_eq_div_pow]
  rfl

/-- The low hexadecimal digit of a byte. -/
theorem bits_low_nibble (b : Byte) : bits b 3 0 = b.toNat % 16 := rfl

/-- Two hexadecimal digits write a byte behind what stands before them. -/
theorem numberFrom_hexByte (acc : Nat) (b : Byte) : numberFrom 16 acc (hexByte b) = some (acc * 256 + b.toNat) := by
  have hb := b.isLt
  rw [hexByte, numberFrom_cons (digitValue_digitChar_hex _ (bits_lt b 7 4)),
    numberFrom_cons (digitValue_digitChar_hex _ (bits_lt b 3 0)), numberFrom, bits_high_nibble, bits_low_nibble,
    Option.some_inj]
  omega

theorem literalOf_hexText (b : Byte) : literalOf (hexText b) = some (b.toNat : Int) := by
  show (numberFrom 16 0 (hexByte b)).map Int.ofNat = _
  rw [numberFrom_hexByte, Nat.zero_mul, Nat.zero_add]
  rfl

theorem literalOf_yearText (y : Half) : literalOf (yearText y) = some (y.toNat : Int) := by
  show (numberFrom 16 0 (hexByte (highByte y) ++ hexByte (lowByte y))).map Int.ofNat = _
  rw [numberFrom_append, numberFrom_hexByte, Option.bind_some, numberFrom_hexByte, Nat.zero_mul, Nat.zero_add,
    highByte_lowByte_toNat]
  rfl

theorem decimalDigits_ne_nil (fuel n : Nat) : decimalDigits (fuel + 1) n ≠ [] := by
  rw [decimalDigits]
  split <;> simp

theorem isDigit_of_mem_decimalDigits {fuel n : Nat} {c : Char} (h : c ∈ decimalDigits fuel n) : c.isDigit = true := by
  induction fuel generalizing n with
  | zero => cases h
  | succ fuel ih =>
    rw [decimalDigits] at h
    split at h
    case isTrue hn => exact List.mem_singleton.mp h ▸ isDigit_digitChar n hn
    case isFalse =>
      rcases List.mem_append.mp h with h | h
      · exact ih h
      · exact List.mem_singleton.mp h ▸ isDigit_digitChar _ (Nat.mod_lt _ (by decide))

/-- Decimal digits write their number. -/
theorem numberFrom_decimalDigits {fuel n : Nat} (h : n < 10 ^ (fuel + 1)) :
    numberFrom 10 0 (decimalDigits (fuel + 1) n) = some n := by
  have hone : ∀ m < 10, numberFrom 10 0 [digitChar m] = some m := fun m hm => by
    rw [numberFrom_cons (digitValue_digitChar_decimal m hm), Nat.zero_mul, Nat.zero_add, numberFrom]
  induction fuel generalizing n with
  | zero =>
    have hn : n < 10 := by simpa using h
    rw [decimalDigits, if_pos hn, hone n hn]
  | succ fuel ih =>
    rw [decimalDigits]
    split
    case isTrue hn => exact hone n hn
    case isFalse =>
      have hdiv : n / 10 < 10 ^ (fuel + 1) := by rw [pow_succ] at h; omega
      rw [numberFrom_append, ih hdiv, Option.bind_some,
        numberFrom_cons (digitValue_digitChar_decimal _ (Nat.mod_lt n (by decide))), numberFrom, Nat.div_add_mod']

/-- What begins with digits is no hexadecimal and no negative literal. -/
theorem literalOf_of_isDigit {cs : List Char} (h : ∀ c ∈ cs, c.isDigit = true) :
    literalOf cs = (numberOf 10 cs).map Int.ofNat := by
  unfold literalOf
  split
  · exact absurd (h 'x' (by simp)) (by decide)
  · exact absurd (h '-' (by simp)) (by decide)
  · rfl

theorem literalOf_minus (cs : List Char) : literalOf ('-' :: cs) = (numberOf 10 cs).map fun n => -Int.ofNat n := by
  rw [literalOf]
  cases numberOf 10 cs <;> rfl

theorem numberOf_of_ne_nil (base : Nat) {cs : List Char} (h : cs ≠ []) : numberOf base cs = numberFrom base 0 cs := by
  cases cs with
  | nil => exact absurd rfl h
  | cons c cs => rfl

theorem literalOf_signedText {v : Int} (h : vInPort v = true) : literalOf (signedText v) = some v := by
  obtain ⟨hlo, hhi⟩ := (vInPort_iff v).mp h
  have hnumber : numberOf 10 (decimalDigits 5 v.natAbs) = some v.natAbs := by
    rw [numberOf_of_ne_nil 10 (decimalDigits_ne_nil 4 _), numberFrom_decimalDigits (by norm_num; omega)]
  unfold signedText
  split
  case isTrue hneg =>
    rw [literalOf_minus, hnumber, Option.map_some, Option.some_inj, Int.ofNat_eq_natCast]
    omega
  case isFalse =>
    rw [literalOf_of_isDigit fun _ => isDigit_of_mem_decimalDigits, hnumber, Option.map_some, Option.some_inj]
    exact Int.natAbs_of_nonneg (by omega)

/-! ### The operands of an instruction as literals -/

/-- The operand values an instruction stands for in its line, in frame order (30_encoding.md R70). -/
def operandNumbers : Instr → List Int
  | .bcdEnc v => [v]
  | .bcdDec t o => [(t.toNat : Int), (o.toNat : Int)]
  | .dtDec p => p.bytes.map fun b => (b.toNat : Int)
  | .dtEnc t => ([t.second, t.minute, t.hour, t.weekday, t.day, t.month].map fun b => (b.toNat : Int)) ++
      [(t.year.toNat : Int)]
  | .fldGet b m => [b, m].map fun b => (b.toNat : Int)
  | .fldSet b m v => [b, m, v].map fun b => (b.toNat : Int)

/-- Words and the values they write as literals. -/
abbrev Literals (ws : List (List Char)) (vs : List Int) : Prop := List.Forall₂ (fun w v => literalOf w = some v) ws vs

theorem literals_hexText (bs : List Byte) : Literals (bs.map hexText) (bs.map fun b => (b.toNat : Int)) := by
  rw [Literals, List.forall₂_map_left_iff, List.forall₂_map_right_iff]
  exact List.forall₂_same.mpr fun b _ => literalOf_hexText b

/-- The printed operands are literals of the operand values (30_encoding.md R72). -/
theorem operandTexts_literals {i : Instr} (h : i.WellFormed) : Literals (operandTexts i) (operandNumbers i) := by
  cases i with
  | bcdEnc v => exact .cons (literalOf_signedText h) .nil
  | bcdDec t o =>
    have hnibble : ∀ n : Nibble, literalOf (hexText (n.setWidth 8)) = some (n.toNat : Int) := fun n => by
      rw [literalOf_hexText, BitVec.toNat_setWidth_of_le (by decide)]
    exact .cons (hnibble t) (.cons (hnibble o) .nil)
  | dtDec p => exact literals_hexText p.bytes
  | dtEnc t => exact List.rel_append (literals_hexText _) (.cons (literalOf_yearText t.year) .nil)
  | fldGet b m => exact literals_hexText [b, m]
  | fldSet b m v => exact literals_hexText [b, m, v]

theorem operandTexts_ne_nil (i : Instr) : operandTexts i ≠ [] := by
  cases i <;> exact List.cons_ne_nil _ _

theorem nibbleOperand_toNat (n : Nibble) : nibbleOperand (n.toNat : Int) = .next n := by
  have := n.isLt
  rw [nibbleOperand, if_pos (by omega), BitVec.ofInt_natCast, BitVec.ofNat_toNat, BitVec.setWidth_eq]

theorem yearOperand_toNat (y : Half) : yearOperand (y.toNat : Int) = .next y := by
  have := y.isLt
  rw [yearOperand, if_pos (by omega), BitVec.ofInt_natCast, BitVec.ofNat_toNat, BitVec.setWidth_eq]

/-- An instruction's mnemonic and operand values assemble to it. -/
theorem assemble_operandNumbers {i : Instr} (h : i.WellFormed) :
    assemble (Instr.mnemonic i) (operandNumbers i) = .next i := by
  cases i with
  | bcdEnc v => exact if_pos h
  | bcdDec t o =>
    show assembleBcdDec [_, _] = _
    rw [assembleBcdDec, nibbleOperand_toNat, andThen_of_next, nibbleOperand_toNat, andThen_of_next]
  | dtDec p =>
    show assembleDtDec _ = _
    rw [assembleDtDec, operandNumbers, byteOperands_of_bytes]
    rfl
  | dtEnc t =>
    have hbytes := byteOperands_of_bytes [t.second, t.minute, t.hour, t.weekday, t.day, t.month]
    show assembleDtEnc [_, _, _, _, _, _, _] = _
    simp only [List.map_cons, List.map_nil] at hbytes
    rw [assembleDtEnc, hbytes, andThen_of_next, yearOperand_toNat, andThen_of_next]
  | fldGet b m =>
    show assembleFldGet _ = _
    rw [assembleFldGet, operandNumbers, byteOperands_of_bytes]
    rfl
  | fldSet b m v =>
    show assembleFldSet _ = _
    rw [assembleFldSet, operandNumbers, byteOperands_of_bytes]
    rfl

theorem operandValues_literals (ns : Names) (vs : List Int) : operandValues ns (vs.map .lit) = .next vs := by
  induction vs with
  | nil => rfl
  | cons v vs ih => rw [List.map_cons, operandValues, Operand.values, andThen_of_next, ih]; rfl

/-! ### The tokens of a line -/

theorem isWordChar_of_digitValue {base : Nat} {c : Char} {d : Nat} (h : digitValue base c = some d) :
    isWordChar c = true := by
  have halnum : c.isAlphanum = true := by
    unfold digitValue at h
    simp only [Char.isAlphanum, Char.isAlpha, Char.isUpper, Char.isLower, Bool.or_eq_true, Bool.and_eq_true,
      decide_eq_true_eq]
    split_ifs at h with hdigit hupper hlower
    · exact .inr hdigit
    · exact .inl (.inl ⟨hupper.1, hupper.2.trans (by decide)⟩)
    · exact .inl (.inr ⟨hlower.1, hlower.2.trans (by decide)⟩)
    · cases h
  simp [isWordChar, halnum]

theorem isWordChar_of_numberFrom {base acc n : Nat} {cs : List Char} (h : numberFrom base acc cs = some n) :
    ∀ c ∈ cs, isWordChar c = true := by
  induction cs generalizing acc with
  | nil => simp
  | cons c cs ih =>
    rw [numberFrom] at h
    split at h
    case h_1 d hd => exact List.forall_mem_cons.mpr ⟨isWordChar_of_digitValue hd, ih h⟩
    case h_2 => cases h

/-- A number has a digit, and its characters can stand in a word. -/
theorem word_of_numberOf {base n : Nat} {cs : List Char} (h : numberOf base cs = some n) :
    cs ≠ [] ∧ ∀ c ∈ cs, isWordChar c = true := by
  cases cs with
  | nil => cases h
  | cons c cs => exact ⟨List.cons_ne_nil _ _, isWordChar_of_numberFrom h⟩

/-- A literal is one word. -/
theorem word_of_literalOf {w : List Char} {v : Int} (h : literalOf w = some v) :
    w ≠ [] ∧ ∀ c ∈ w, isWordChar c = true := by
  have number : ∀ {base : Nat} {cs : List Char} {f : Nat → Int}, (numberOf base cs).map f = some v →
      cs ≠ [] ∧ ∀ c ∈ cs, isWordChar c = true := fun h =>
    let ⟨_, hn, _⟩ := Option.map_eq_some_iff.mp h
    word_of_numberOf hn
  rw [literalOf.eq_def] at h
  split at h
  case h_1 cs =>
    obtain ⟨-, hword⟩ := number h
    exact ⟨by simp, List.forall_mem_cons.mpr ⟨by decide, List.forall_mem_cons.mpr ⟨by decide, hword⟩⟩⟩
  case h_2 cs =>
    obtain ⟨-, hword⟩ := number ((literalOf_minus cs).symm.trans h)
    exact ⟨by simp, List.forall_mem_cons.mpr ⟨by decide, hword⟩⟩
  case h_3 => exact number h

theorem flushWord_of_ne_nil {w : List Char} (h : w ≠ []) : flushWord w = [.word w] := by
  cases w with
  | nil => exact absurd rfl h
  | cons c cs => rfl

/-- The characters of a word are taken into the current word. -/
theorem tokensFrom_word {w : List Char} (h : ∀ c ∈ w, isWordChar c = true) (acc cs : List Char) :
    tokensFrom acc (w ++ cs) = tokensFrom (acc ++ w) cs := by
  induction w generalizing acc with
  | nil => rw [List.append_nil, List.nil_append]
  | cons c w ih =>
    obtain ⟨hc, hw⟩ := List.forall_mem_cons.mp h
    rw [List.cons_append, tokensFrom, if_pos hc, ih hw, List.append_assoc, List.singleton_append]

/-- A comma or a space ends the current word. -/
theorem tokensFrom_space (acc cs : List Char) : tokensFrom acc (' ' :: cs) = flushWord acc ++ tokensFrom [] cs := by
  rw [tokensFrom, if_neg (by decide), if_neg (by decide), if_pos (by decide)]

theorem tokensFrom_comma (acc cs : List Char) :
    tokensFrom acc (',' :: cs) = flushWord acc ++ .mark ',' :: tokensFrom [] cs := by
  rw [tokensFrom, if_neg (by decide), if_neg (by decide), if_neg (by decide)]

/-- The tokens of an operand list: words, with commas between them. -/
def operandTokens : List (List Char) → List Token
  | [] => []
  | [w] => [.word w]
  | w :: ws => .word w :: .mark ',' :: operandTokens ws

theorem operandTokens_cons (w : List Char) (ws : List (List Char)) :
    ∃ ts, operandTokens (w :: ws) = .word w :: ts := by
  cases ws with
  | nil => exact ⟨_, rfl⟩
  | cons w' ws => exact ⟨_, rfl⟩

theorem tokensFrom_joinOperands {ws : List (List Char)} {vs : List Int} (h : Literals ws vs) :
    tokensFrom [] (joinOperands ws) = operandTokens ws := by
  induction h with
  | nil => rfl
  | @cons w v ws vs hw htail ih =>
    obtain ⟨hne, hword⟩ := word_of_literalOf hw
    cases ws with
    | nil =>
      have hlast := tokensFrom_word hword [] []
      rw [List.append_nil, List.nil_append] at hlast
      rw [joinOperands, hlast, tokensFrom, flushWord_of_ne_nil hne]
      rfl
    | cons w' ws =>
      show tokensFrom [] (w ++ [',', ' '] ++ joinOperands (w' :: ws)) = .word w :: .mark ',' :: operandTokens (w' :: ws)
      rw [List.append_assoc, tokensFrom_word hword, List.nil_append, List.cons_append, tokensFrom_comma,
        List.singleton_append, tokensFrom_space, flushWord_of_ne_nil hne, ih]
      rfl

theorem word_of_mnemonic (m : Mnemonic) : m.text.toList ≠ [] ∧ ∀ c ∈ m.text.toList, isWordChar c = true := by
  rw [← List.all_eq_true]
  cases m <;> decide

/-- The tokens of a printed instruction. -/
theorem tokens_instrText {i : Instr} (h : i.WellFormed) :
    tokens (instrText i) = .word (Instr.mnemonic i).text.toList :: operandTokens (operandTexts i) := by
  obtain ⟨hne, hword⟩ := word_of_mnemonic (Instr.mnemonic i)
  rw [tokens, instrText, String.toList_ofList, List.append_assoc, tokensFrom_word hword, List.nil_append,
    List.singleton_append, tokensFrom_space, flushWord_of_ne_nil hne, tokensFrom_joinOperands (operandTexts_literals h)]
  rfl

/-! ### Reading a request line -/

/-- Literal operands are read as their values. -/
theorem operandsOf_operandTokens {ws : List (List Char)} {vs : List Int} (h : Literals ws vs) (hne : ws ≠ []) :
    operandsOf (operandTokens ws) = some (vs.map .lit) := by
  induction h with
  | nil => exact absurd rfl hne
  | @cons w v ws vs hw htail ih =>
    have hoperand : wordOperand w = some (.lit v) := by rw [wordOperand, hw]
    cases htail with
    | nil => rw [operandTokens, operandsOf, hoperand]; rfl
    | @cons w' v' ws vs hw' htail =>
      show operandsOf (.word w :: .mark ',' :: operandTokens (w' :: ws)) = _
      rw [operandsOf, hoperand, ih (List.cons_ne_nil _ _)]
      rfl

theorem mnemonicOfText_text (m : Mnemonic) : mnemonicOfText m.text = some m := by cases m <;> decide

/-- No mnemonic is a word that begins another statement. -/
theorem statementOf_mnemonic (m : Mnemonic) (w : List Char) (ts : List Token) :
    statementOf (.word m.text.toList :: .word w :: ts) = requestOf none m.text.toList (.word w :: ts) := by
  cases m <;> rfl

/-- A line of a mnemonic and literal operands is its request line. -/
theorem lineOf_request {text : String} {m : Mnemonic} {ws : List (List Char)} {vs : List Int} (h : Literals ws vs)
    (hne : ws ≠ []) (htokens : tokens text = .word m.text.toList :: operandTokens ws) :
    lineOf text = some [.request none m (vs.map .lit)] := by
  have hops := operandsOf_operandTokens h hne
  obtain ⟨w, ws, rfl⟩ := List.exists_cons_of_ne_nil hne
  obtain ⟨ts, hts⟩ := operandTokens_cons w ws
  rw [hts] at htokens hops
  rw [lineOf, htokens]
  show (statementOf (.word m.text.toList :: .word w :: ts)).map (fun a => [a]) = _
  rw [statementOf_mnemonic, requestOf, String.ofList_toList, mnemonicOfText_text, hops]
  rfl

/-- The text an instruction prints as assembles to it (30_encoding.md R70, R72). -/
theorem assembleText_instrText {i : Instr} (h : i.WellFormed) : assembleText (instrText i) = .next i := by
  rw [assembleText, lineOf_request (operandTexts_literals h) (operandTexts_ne_nil i) (tokens_instrText h)]
  show andThen (operandValues [] ((operandNumbers i).map .lit)) (assemble (Instr.mnemonic i)) = _
  rw [operandValues_literals, andThen_of_next, assemble_operandNumbers h]

/-! ### The printed form -/

theorem hexDigit_eq_digitChar : ∀ n < 16, "0123456789ABCDEF".toList.getD n '?' = digitChar n := by decide

/-- `hexOf` prints the digits that `digitChar` gives. -/
theorem hexOf_eq (digits n : Nat) : hexOf digits n =
    String.ofList (['0', 'x'] ++ (List.range digits).reverse.map fun k => digitChar (n / 16 ^ k % 16)) := by
  have hdigit : ∀ k, "0123456789ABCDEF".toList.getD (n / 16 ^ k % 16) '?' = digitChar (n / 16 ^ k % 16) := fun k =>
    hexDigit_eq_digitChar _ (Nat.mod_lt _ (by decide))
  rw [hexOf, funext hdigit, String.ofList_append]

theorem hexText_eq_hexOf (b : Byte) : String.ofList (hexText b) = hexOf 2 b.toNat := by
  rw [hexOf_eq, hexText, hexByte, bits_high_nibble, bits_low_nibble]
  simp [List.range_succ]

theorem yearText_eq_hexOf (y : Half) : String.ofList (yearText y) = hexOf 4 y.toNat := by
  have hhigh : (highByte y).toNat = y.toNat / 256 % 256 := by
    rw [highByte, BitVec.extractLsb'_toNat, Nat.shiftRight_eq_div_pow]
  have hlow : (lowByte y).toNat = y.toNat % 256 := BitVec.extractLsb'_toNat ..
  have h3 : y.toNat / 256 % 256 / 16 % 16 = y.toNat / 16 ^ 3 % 16 := by omega
  have h2 : y.toNat / 256 % 256 % 16 = y.toNat / 16 ^ 2 % 16 := by omega
  have h1 : y.toNat % 256 / 16 % 16 = y.toNat / 16 ^ 1 % 16 := by omega
  have h0 : y.toNat % 256 % 16 = y.toNat / 16 ^ 0 % 16 := by omega
  rw [hexOf_eq, yearText, hexByte, hexByte]
  simp only [bits_high_nibble, bits_low_nibble, hhigh, hlow, h3, h2, h1, h0]
  rfl

theorem digitChar_eq_natDigitChar : ∀ n < 10, digitChar n = Nat.digitChar n := by decide

/-- The model's decimal digits are the library's. -/
theorem decimalDigits_eq_toDigits {fuel n : Nat} (h : n < 10 ^ (fuel + 1)) :
    decimalDigits (fuel + 1) n = Nat.toDigits 10 n := by
  have hone : ∀ m < 10, [digitChar m] = Nat.toDigits 10 m := fun m hm => by
    rw [Nat.toDigits_of_lt_base hm, digitChar_eq_natDigitChar m hm]
  induction fuel generalizing n with
  | zero =>
    have hn : n < 10 := by simpa using h
    rw [decimalDigits, if_pos hn, hone n hn]
  | succ fuel ih =>
    rw [decimalDigits]
    split
    case isTrue hn => exact hone n hn
    case isFalse hn =>
      have hdiv : n / 10 < 10 ^ (fuel + 1) := by rw [pow_succ] at h; omega
      rw [ih hdiv, Nat.toDigits_of_base_le (by decide) (not_lt.mp hn),
        digitChar_eq_natDigitChar _ (Nat.mod_lt n (by decide))]

/-- 30_encoding.md R72: V prints as a signed decimal number. -/
theorem signedText_eq_toString {v : Int} (h : vInPort v = true) : String.ofList (signedText v) = toString v := by
  obtain ⟨hlo, hhi⟩ := (vInPort_iff v).mp h
  have hdigits : decimalDigits 5 v.natAbs = Nat.toDigits 10 v.natAbs := decimalDigits_eq_toDigits (by norm_num; omega)
  rw [signedText, hdigits]
  cases v with
  | ofNat n => rfl
  | negSucc n =>
    rw [if_pos (Int.negSucc_lt_zero n)]
    exact String.ofList_append (l₁ := ['-'])

theorem joinOperands_eq_intercalate (ws : List (List Char)) : joinOperands ws = [',', ' '].intercalate ws := by
  induction ws with
  | nil => rfl
  | cons w ws ih =>
    cases ws with
    | nil => exact (List.intercalate_singleton ..).symm
    | cons w' ws => rw [List.intercalate_cons_cons, ← ih]; rfl

/-- An instruction prints as its mnemonic, a space, and its operands with a comma and a space between them. -/
theorem instrText_eq (i : Instr) :
    instrText i = (Instr.mnemonic i).text ++ " " ++ ", ".intercalate ((operandTexts i).map String.ofList) := by
  rw [← String.toList_inj, instrText, joinOperands_eq_intercalate]
  simp [String.toList_intercalate, Function.comp_def]

theorem intercalate_pair (sep a b : String) : sep.intercalate [a, b] = a ++ sep ++ b := rfl

theorem intercalate_triple (sep a b c : String) : sep.intercalate [a, b, c] = a ++ sep ++ b ++ sep ++ c := rfl

theorem map_hexText_eq_hexOf (bs : List Byte) :
    (bs.map hexText).map String.ofList = bs.map fun b => hexOf 2 b.toNat := by
  rw [List.map_map]
  exact List.map_congr_left fun b _ => hexText_eq_hexOf b

theorem nibbleText_eq_hexOf (n : Nibble) : String.ofList (hexText (n.setWidth 8)) = hexOf 2 n.toNat := by
  rw [hexText_eq_hexOf, BitVec.toNat_setWidth_of_le (by decide)]

/-- 30_encoding.md R72: an illegal OP byte prints as `.byte 0xNN`. -/
theorem illegalText_eq (op : Byte) : illegalText op = ".byte " ++ hexOf 2 op.toNat := by
  rw [← hexText_eq_hexOf]
  exact String.ofList_append.trans (by rw [String.ofList_toList])

/-- Settles O10: the printed line is read back word by word, and its operands are the digits that `hexOf` names. -/
theorem disassemblyAssembles : Obligations.DisassemblyAssembles := by
  refine ⟨fun i => assembleText_instrText, fun i rest h => by rw [disassemble, decode_encode_append h],
    fun v h => ?_, fun t o => ?_, fun p => ?_, fun t => ?_, fun b m => ?_, fun b m v => ?_, fun op rest h => ?_⟩
  · rw [instrText_eq, ← signedText_eq_toString h]
    rfl
  · rw [instrText_eq, ← nibbleText_eq_hexOf, ← nibbleText_eq_hexOf, operandTexts, List.map_cons, List.map_singleton,
      intercalate_pair, ← String.append_assoc, ← String.append_assoc]
    rfl
  · rw [instrText_eq, ← map_hexText_eq_hexOf]
    rfl
  · rw [instrText_eq, ← map_hexText_eq_hexOf, ← yearText_eq_hexOf]
    rfl
  · rw [instrText_eq, operandTexts, ← hexText_eq_hexOf, ← hexText_eq_hexOf, List.map_cons, List.map_singleton,
      intercalate_pair, ← String.append_assoc, ← String.append_assoc]
    rfl
  · rw [instrText_eq, operandTexts, ← hexText_eq_hexOf, ← hexText_eq_hexOf, ← hexText_eq_hexOf, List.map_cons,
      List.map_cons, List.map_singleton, intercalate_triple, ← String.append_assoc, ← String.append_assoc,
      ← String.append_assoc, ← String.append_assoc]
    rfl
  · rw [disassemble, decode_of_undefined ((opcodeOf_eq_none_iff op).mpr h)]
    exact congrArg some (illegalText_eq op)

end Sys2Proof.Machine
end

section
/-! Proofs: the BCD codec packs two digits into a byte and takes them apart again (40_bcd.md R100 to R106). -/

namespace Sys2Proof.Machine

/-! ### What the two operations answer -/

theorem bcdEnc_of_le {v : Nat} (h : v ≤ 99) : bcdEnc (v : Int) = .ok (bcdByte v) := by
  rw [bcdEnc, if_neg (by omega), Int.toNat_natCast]

theorem bcdEnc_of_outside {v : Int} (h : v < 0 ∨ 99 < v) : bcdEnc v = .error rangeError :=
  if_pos h

theorem exec_bcdEnc_of_le {v : Nat} (h : v ≤ 99) (s : State) :
    exec (.bcdEnc v) s = .next (s.setResponse (some (.ok (.byte (bcdByte v))))) := by
  rw [exec_eq_respond, execResponse, execResult, bcdEnc_of_le h]
  rfl

theorem exec_bcdEnc_of_outside {v : Int} (h : v < 0 ∨ 99 < v) (s : State) :
    exec (.bcdEnc v) s = .next (s.setResponse (some (.error ⟨.E_RANGE, 0xFF⟩))) := by
  rw [exec_eq_respond, execResponse, execResult, bcdEnc_of_outside h]
  rfl

theorem exec_bcdDec (t o : Nibble) (s : State) :
    exec (.bcdDec t o) s = .next (s.setResponse (some (.ok (.value (bcdDec t o))))) :=
  exec_eq_respond (.bcdDec t o) s

/-- BCD.ENC answers a byte only where V is a two-digit number, and the byte is that number packed. -/
theorem responseOf_bcdEnc_eq_byte_iff {v : Int} {b : Byte} {s : State} :
    responseOf (exec (.bcdEnc v) s) = some (.ok (.byte b)) ↔ ∃ n : Nat, v = n ∧ n ≤ 99 ∧ bcdByte n = b := by
  constructor
  · intro h
    by_cases hv : v < 0 ∨ 99 < v
    · rw [exec_bcdEnc_of_outside hv] at h
      cases h
    · lift v to Nat using by omega
      have hle : v ≤ 99 := by omega
      rw [exec_bcdEnc_of_le hle] at h
      cases h
      exact ⟨v, rfl, hle, rfl⟩
  · rintro ⟨n, rfl, hn, rfl⟩
    rw [exec_bcdEnc_of_le hn]
    rfl

/-! ### The digits of a packed byte -/

theorem bits_bcdByte_tens {v : Nat} (h : v ≤ 99) : bits (bcdByte v) 7 4 = v / 10 := by
  rw [bits_high_nibble, bcdByte_toNat h]
  omega

theorem bits_bcdByte_ones {v : Nat} (h : v ≤ 99) : bits (bcdByte v) 3 0 = v % 10 := by
  rw [bits_low_nibble, bcdByte_toNat h]
  omega

/-- 40_bcd.md R104: a packed byte holds two digits. -/
theorem bits_bcdByte_le {v : Nat} (h : v ≤ 99) : bits (bcdByte v) 7 4 ≤ 9 ∧ bits (bcdByte v) 3 0 ≤ 9 := by
  rw [bits_bcdByte_tens h, bits_bcdByte_ones h]
  omega

/-- 40_bcd.md R105: packing the number that two digits stand for gives the byte of these digits. -/
theorem bcdByte_of_digits {b : Byte} (htens : bits b 7 4 ≤ 9) (hones : bits b 3 0 ≤ 9) :
    bcdByte (fromBcdNibbles (bits b 7 4) (bits b 3 0)) = b := by
  have hb := b.isLt
  rw [bits_high_nibble] at htens ⊢
  rw [bits_low_nibble] at hones ⊢
  apply BitVec.eq_of_toNat_eq
  rw [bcdByte_toNat (by rw [fromBcdNibbles]; omega), fromBcdNibbles]
  omega

theorem bcdByte_injective {v w : Nat} (hv : v ≤ 99) (hw : w ≤ 99) (h : bcdByte v = bcdByte w) : v = w := by
  have htens : v / 10 = w / 10 := by rw [← bits_bcdByte_tens hv, h, bits_bcdByte_tens hw]
  have hones : v % 10 = w % 10 := by rw [← bits_bcdByte_ones hv, h, bits_bcdByte_ones hw]
  omega

/-- No pair of nibbles overflows the answer's byte: at most 165 (40_bcd.md R101). -/
theorem bcdDec_toNat (t o : Nibble) : (bcdDec t o).toNat = fromBcdNibbles t.toNat o.toNat := by
  have ht := t.isLt
  have ho := o.isLt
  rw [bcdDec, BitVec.toNat_ofNat, Nat.mod_eq_of_lt]
  rw [fromBcdNibbles]
  omega

theorem ofNat_bits_tens (b : Byte) : BitVec.ofNat 4 (bits b 7 4) = tensOf b := by
  rw [← tensOf_toNat, BitVec.ofNat_toNat, BitVec.setWidth_eq]

theorem ofNat_bits_ones (b : Byte) : BitVec.ofNat 4 (bits b 3 0) = onesOf b := by
  rw [← onesOf_toNat, BitVec.ofNat_toNat, BitVec.setWidth_eq]

theorem bcdDec_bits_toNat (b : Byte) :
    (bcdDec (BitVec.ofNat 4 (bits b 7 4)) (BitVec.ofNat 4 (bits b 3 0))).toNat =
      fromBcdNibbles (bits b 7 4) (bits b 3 0) := by
  rw [ofNat_bits_tens, ofNat_bits_ones, bcdDec_toNat, tensOf_toNat, onesOf_toNat]

/-- 40_bcd.md R103: BCD.DEC of the digits of a packed number is that number. -/
theorem bcdDec_bcdByte {v : Nat} (h : v ≤ 99) :
    bcdDec (BitVec.ofNat 4 (bits (bcdByte v) 7 4)) (BitVec.ofNat 4 (bits (bcdByte v) 3 0)) = BitVec.ofNat 8 v := by
  apply BitVec.eq_of_toNat_eq
  rw [bcdDec_bits_toNat, bits_bcdByte_tens h, bits_bcdByte_ones h, fromBcdNibbles, Nat.div_add_mod',
    BitVec.toNat_ofNat, Nat.mod_eq_of_lt (by omega)]

/-! ### How many bytes hold two digits -/

/-- Both nibbles of the byte are digits, as `Obligations.BcdEncImage` counts them. -/
def twoDigits (n : Nat) : Bool := bits (BitVec.ofNat 8 n) 7 4 ≤ 9 && bits (BitVec.ofNat 8 n) 3 0 ≤ 9

theorem countP_twoDigits_row : ∀ t < 16,
    ((List.range 16).map (16 * t + ·)).countP twoDigits = if t ≤ 9 then 10 else 0 := by
  decide

/-- Of the bytes with one of the first k tens nibbles, ten for each that is a digit. -/
theorem countP_twoDigits_rows {k : Nat} (h : k ≤ 16) : (List.range (16 * k)).countP twoDigits = 10 * min k 10 := by
  induction k with
  | zero => rfl
  | succ k ih =>
    rw [Nat.mul_succ, List.range_add, List.countP_append, ih (by omega), countP_twoDigits_row k (by omega)]
    split <;> omega

/-! ### A narrow tens field -/

theorem tens_lt_two_pow {w v : Nat} (h : v ≤ 10 * 2 ^ w - 1) : v / 10 < 2 ^ w := by
  have hpos := Nat.two_pow_pos w
  omega

/-- 40_bcd.md R106: a tens digit below 2^w leaves the bits from 4 + w on clear. -/
theorem getLsbD_bcdByte_of_tens_lt {w v i : Nat} (hv : v ≤ 99) (htens : v / 10 < 2 ^ w) (hi : 4 + w ≤ i) :
    (bcdByte v).getLsbD i = false := by
  apply Nat.testBit_lt_two_pow
  calc (bcdByte v).toNat = 16 * (v / 10) + v % 10 := bcdByte_toNat hv
    _ < 2 ^ 4 * 2 ^ w := by omega
    _ = 2 ^ (4 + w) := (Nat.pow_add 2 4 w).symm
    _ ≤ 2 ^ i := Nat.pow_le_pow_right Nat.two_pos hi

/-! ### The obligations -/

/-- Settles O12: the decoder's own frame, and the two answers of `bcdEnc`. -/
theorem bcdEncPacksDigits : Obligations.BcdEncPacksDigits := by
  refine ⟨fun hi lo rest => rfl, fun v s h0 h99 => ?_, fun v s => (exec_bcdEnc_of_outside · s)⟩
  lift v to Nat using h0
  have hv : v ≤ 99 := by omega
  refine ⟨_, exec_bcdEnc_of_le hv s, ?_, ?_⟩
  · rw [bits_bcdByte_tens hv]
    rfl
  · rw [bits_bcdByte_ones hv]
    rfl

/-- Settles O13: the nibbles of the frame's byte, and a value that fits in the answer's byte. -/
theorem bcdDecCombinesDigits : Obligations.BcdDecCombinesDigits :=
  ⟨fun p _ => ⟨tensOf p, onesOf p, rfl, tensOf_toNat p, onesOf_toNat p⟩,
    fun t o s => ⟨_, exec_bcdDec t o s, bcdDec_toNat t o⟩⟩

/-- Settles O14: the digits of a packed number read back as the number; every other V is `rangeError`. -/
theorem bcdRoundTrip : Obligations.BcdRoundTrip := by
  refine ⟨fun v s hv => ⟨_, exec_bcdEnc_of_le hv s, ?_⟩, fun v s hv => ?_⟩
  · rw [exec_bcdDec, bcdDec_bcdByte hv]
  · rw [exec_bcdEnc_of_outside (by omega)]
    exact ⟨_, rfl⟩

/-- Settles O15: by the inversion of BCD.ENC's answer, every byte of the image is a packed number, of two digits. -/
theorem bcdEncImage : Obligations.BcdEncImage := by
  refine ⟨fun b s => ⟨?_, ?_⟩, countP_twoDigits_rows (k := 16) le_rfl, fun v w b s hv hw => ?_⟩
  · rintro ⟨v, hv⟩
    obtain ⟨n, rfl, hn, rfl⟩ := responseOf_bcdEnc_eq_byte_iff.mp hv
    exact bits_bcdByte_le hn
  · rintro ⟨htens, hones⟩
    exact ⟨_, responseOf_bcdEnc_eq_byte_iff.mpr
      ⟨_, rfl, by rw [fromBcdNibbles]; omega, bcdByte_of_digits htens hones⟩⟩
  · obtain ⟨n, rfl, hn, hnb⟩ := responseOf_bcdEnc_eq_byte_iff.mp hv
    obtain ⟨m, rfl, hm, hmb⟩ := responseOf_bcdEnc_eq_byte_iff.mp hw
    rw [bcdByte_injective hn hm (hnb.trans hmb.symm)]

/-- Settles O16: packing undoes BCD.DEC on two digits; a byte with a nibble above 9 is no packed number. -/
theorem bcdInverseOnDigits : Obligations.BcdInverseOnDigits := by
  refine fun b s => ⟨_, exec_bcdDec _ _ s, ?_, ?_⟩
  · rintro ⟨htens, hones⟩
    rw [bcdDec_bits_toNat, exec_bcdEnc_of_le (by rw [fromBcdNibbles]; omega), bcdByte_of_digits htens hones]
  · intro habove hb
    obtain ⟨n, -, hn, rfl⟩ := responseOf_bcdEnc_eq_byte_iff.mp hb
    obtain ⟨htens, hones⟩ := bits_bcdByte_le hn
    omega

/-- Settles O17: a tens digit below 2^w keeps the packed byte below 2^(4+w). -/
theorem narrowTensFieldsFit : Obligations.NarrowTensFieldsFit :=
  fun _ _ s hw hv => ⟨_, exec_bcdEnc_of_le hv s, tens_lt_two_pow hw,
    fun _ => getLsbD_bcdByte_of_tens_lt hv (tens_lt_two_pow hw)⟩

end Sys2Proof.Machine
end

section
/-! Proofs: the seven date registers, each decoded by its own rule (41_datetime.md R121 to R132). -/

namespace Sys2Proof.Machine

/-- A sequence answers a value exactly where its first part does and the rest does on that part's value. -/
theorem bind_eq_ok_iff {α β : Type} {r : Except CodecError α} {f : α → Except CodecError β} {b : β} :
    r >>= f = .ok b ↔ ∃ a, r = .ok a ∧ f a = .ok b := by
  cases r with
  | ok a => exact ⟨fun h => ⟨a, rfl, h⟩, fun ⟨_, ha, h⟩ => by cases ha; exact h⟩
  | error e => exact ⟨nofun, nofun⟩

theorem isOk_iff {α : Type} {r : Except CodecError α} : r.isOk = true ↔ ∃ a, r = .ok a := by
  cases r with
  | ok a => exact ⟨fun _ => ⟨a, rfl⟩, fun _ => rfl⟩
  | error e => exact ⟨nofun, nofun⟩

/-! ### Two digits, and a range -/

theorem decDigits_eq_ite (i t o : Nat) :
    decDigits i t o = if t > 9 ∨ o > 9 then .error (digitError i) else .ok (t * 10 + o) := by
  unfold decDigits
  by_cases h : t > 9 ∨ o > 9
  · rw [if_pos h, if_neg (by simp [digitOk]; omega)]
  · rw [if_neg h, if_pos (by simp [digitOk]; omega), fromBcdNibbles]

/-- With a tens field too narrow for 10, only the ones digit can be wrong. -/
theorem decDigits_of_tens_le (i : Nat) {t : Nat} (o : Nat) (ht : t ≤ 9) :
    decDigits i t o = if o > 9 then .error (digitError i) else .ok (t * 10 + o) := by
  rw [decDigits_eq_ite]
  exact if_congr (by omega) rfl rfl

/-- A register of two digits: the tens in bits hi:4, the ones in bits 3:0, the value within lo..top. -/
def decTwoDigits (i hi lo top : Nat) (b : Byte) : Except CodecError Nat :=
  decDigits i (bits b hi 4) (bits b 3 0) >>= inRange i lo top

theorem decTwoDigits_eq_ok_iff {i hi lo top : Nat} {b : Byte} {v : Nat} : decTwoDigits i hi lo top b = .ok v ↔
    bits b hi 4 ≤ 9 ∧ bits b 3 0 ≤ 9 ∧ v = bits b hi 4 * 10 + bits b 3 0 ∧ lo ≤ v ∧ v ≤ top := by
  rw [decTwoDigits, decDigits_eq_ite]
  split
  case isTrue h => exact ⟨nofun, fun _ => by omega⟩
  case isFalse h =>
    show inRange _ _ _ _ = _ ↔ _
    unfold inRange
    split
    case isTrue hv => exact ⟨nofun, fun _ => by omega⟩
    case isFalse hv => simp only [Except.ok.injEq]; omega

theorem decTwoDigits_of_digits {hi lo top : Nat} {b : Byte} (i : Nat) (htens : bits b hi 4 ≤ 9) (hones : bits b 3 0 ≤ 9)
    (hlo : lo ≤ bits b hi 4 * 10 + bits b 3 0) (htop : bits b hi 4 * 10 + bits b 3 0 ≤ top) :
    decTwoDigits i hi lo top b = .ok (bits b hi 4 * 10 + bits b 3 0) :=
  decTwoDigits_eq_ok_iff.mpr ⟨htens, hones, rfl, hlo, htop⟩

/-- A tens field of at most three bits holds no value above 9. -/
theorem bits_tens_le {b : Byte} {hi : Nat} (h : hi ≤ 6) : bits b hi 4 ≤ 9 := by
  have hlt := bits_lt b hi 4
  have hpow : 2 ^ (hi - 4 + 1) ≤ 2 ^ 3 := Nat.pow_le_pow_right Nat.two_pos (by omega)
  omega

/-- The order of the checks: first the ones digit, then the range (41_datetime.md R121 to R130). -/
theorem decTwoDigits_eq_ite {i hi : Nat} (lo top : Nat) (b : Byte) (h : hi ≤ 6) : decTwoDigits i hi lo top b =
    if bits b 3 0 > 9 then .error (digitError i)
    else if bits b hi 4 * 10 + bits b 3 0 < lo ∨ bits b hi 4 * 10 + bits b 3 0 > top then .error (fieldError i)
    else .ok (bits b hi 4 * 10 + bits b 3 0) := by
  rw [decTwoDigits, decDigits_of_tens_le _ _ (bits_tens_le h)]
  split <;> rfl

/-! ### Each register's rule -/

theorem decSec_eq (b : Byte) : decSec b = decTwoDigits 0 6 0 59 b := by
  rw [decSec, get_SEC_TENS, get_SEC_ONES]
  rfl

theorem decMin_eq (b : Byte) : decMin b = decTwoDigits 1 6 0 59 b := by
  rw [decMin, get_MIN_TENS, get_MIN_ONES]
  rfl

theorem decDay_eq (b : Byte) : decDay b = decTwoDigits 4 5 1 31 b := by
  rw [decDay, get_DATE_TENS, get_DATE_ONES]
  rfl

theorem decMonth_eq (b : Byte) : decMonth b = decTwoDigits 5 4 1 12 b := by
  rw [decMonth, get_MON_TENS, get_MON_ONES]
  rfl

theorem decYear_eq (epoch : EpochBase) (b : Byte) :
    decYear epoch b = (decDigits 6 (bits b 7 4) (bits b 3 0)).map (epoch.val + ·) := by
  rw [decYear, get_YR_TENS, get_YR_ONES]
  rfl

theorem decYear_eq_ok_iff {epoch : EpochBase} {b : Byte} {y : Nat} :
    decYear epoch b = .ok y ↔ ∃ v, decTwoDigits 6 7 0 99 b = .ok v ∧ y = epoch.val + v := by
  simp only [decYear_eq, decDigits_eq_ite, decTwoDigits_eq_ok_iff]
  split
  case isTrue h => exact ⟨nofun, fun ⟨_, _⟩ => by omega⟩
  case isFalse h =>
    simp only [Except.map, Except.ok.injEq]
    exact ⟨fun hy => ⟨_, ⟨by omega, by omega, rfl, by omega, by omega⟩, hy.symm⟩,
      fun ⟨_, ⟨_, _, hv, _⟩, hy⟩ => by omega⟩

theorem decWday_eq (b : Byte) :
    decWday b = if bits b 2 0 = 0 then .error (fieldError 3) else .ok (bits b 2 0) := by
  rw [decWday, get_WD_DAY]

theorem decWday_eq_ok_iff {b : Byte} {v : Nat} : decWday b = .ok v ↔ v = bits b 2 0 ∧ 1 ≤ v := by
  rw [decWday_eq]
  split
  case isTrue h => exact ⟨nofun, fun _ => by omega⟩
  case isFalse h => simp only [Except.ok.injEq]; omega

/-! ### The hours register -/

/-- In 24-hour mode bits 5:4 are a tens digit: bit 5 stands for 20, bit 4 for 10 (41_datetime.md R124). -/
theorem bits_hour_tens : ∀ b : Byte, bits b 5 4 * 10 = (if bits b 5 5 = 1 then 20 else 0) + bits b 4 4 * 10 := by
  decide

theorem decHour24_eq (b : Byte) : decHour24 b = decTwoDigits 2 5 0 23 b := by
  rw [decTwoDigits_eq_ite _ _ _ (by omega), decHour24, get_HR_TENS, get_HR_ONES, get_HR_PM20,
    decDigits_of_tens_le _ _ (bits_tens_le (by omega)), bits_hour_tens, Nat.add_assoc]
  split <;> rfl

theorem decHour12Resolve_eq (b : Byte) : decHour12Resolve b =
    (decTwoDigits 2 4 1 12 b).map fun h12 => h12 % 12 + if bits b 5 5 = 1 then 12 else 0 := by
  rw [decHour12Resolve, get_HR_TENS, get_HR_ONES, get_HR_PM20, decTwoDigits]
  cases decDigits 2 (bits b 4 4) (bits b 3 0) <;> rfl

theorem decHour12Source_eq (b : Byte) : decHour12Source b = decDigits 2 (bits b 4 4) (bits b 3 0) := by
  rw [decHour12Source, get_HR_TENS, get_HR_ONES]

theorem decHour_of_mode24 (policy : Hour12Policy) {b : Byte} (h : bits b 6 6 = 0) :
    decHour policy b = decHour24 b := by
  unfold decHour
  rw [get_HR_MODE12, h]
  rfl

section Mode12

variable {b : Byte} (h : bits b 6 6 = 1)
include h

theorem decHour_resolve_of_mode12 : decHour .RESOLVE b = decHour12Resolve b :=
  if_pos ((get_HR_MODE12 b).trans h)

theorem decHour_reject_of_mode12 : decHour .REJECT b = .error mode12Error :=
  if_pos ((get_HR_MODE12 b).trans h)

theorem decHour_source_of_mode12 : decHour .SOURCE b = decHour12Source b :=
  if_pos ((get_HR_MODE12 b).trans h)

end Mode12

theorem twelve_mul_bit (b : Byte) : 12 * bits b 5 5 = if bits b 5 5 = 1 then 12 else 0 := by
  have hlt : bits b 5 5 < 2 := bits_lt b 5 5
  split <;> omega

/-! ### The bits a register's rule reads -/

/-- A field has the same value in two bytes that agree on a mask around it. -/
theorem get_eq_of_agreeOn {m a b : Byte} (f : ChipField) (h : agreeOn m a b) (hf : m &&& f.mask = f.mask) :
    f.get a = f.get b := by
  have hmasked : a &&& f.mask = b &&& f.mask := by
    rw [← hf, ← BitVec.and_assoc, ← BitVec.and_assoc, h]
  rw [ChipField.get, ChipField.get, maskedValue, maskedValue, hmasked]

theorem decSec_eq_of_agreeOn {a b : Byte} (h : agreeOn 0x7F a b) : decSec a = decSec b := by
  rw [decSec, decSec, get_eq_of_agreeOn .SEC_TENS h (by decide), get_eq_of_agreeOn .SEC_ONES h (by decide)]

theorem decMin_eq_of_agreeOn {a b : Byte} (h : agreeOn 0x7F a b) : decMin a = decMin b := by
  rw [decMin, decMin, get_eq_of_agreeOn .MIN_TENS h (by decide), get_eq_of_agreeOn .MIN_ONES h (by decide)]

theorem decHour_eq_of_agreeOn (policy : Hour12Policy) {a b : Byte} (h : agreeOn 0x7F a b) :
    decHour policy a = decHour policy b := by
  simp only [decHour, decHour24, decHour12Resolve, decHour12Source, get_eq_of_agreeOn .HR_MODE12 h (by decide),
    get_eq_of_agreeOn .HR_PM20 h (by decide), get_eq_of_agreeOn .HR_TENS h (by decide),
    get_eq_of_agreeOn .HR_ONES h (by decide)]

theorem decWday_eq_of_agreeOn {a b : Byte} (h : agreeOn 0x07 a b) : decWday a = decWday b := by
  rw [decWday, decWday, get_eq_of_agreeOn .WD_DAY h (by decide)]

theorem decDay_eq_of_agreeOn {a b : Byte} (h : agreeOn 0x3F a b) : decDay a = decDay b := by
  rw [decDay, decDay, get_eq_of_agreeOn .DATE_TENS h (by decide), get_eq_of_agreeOn .DATE_ONES h (by decide)]

theorem decMonth_eq_of_agreeOn {a b : Byte} (h : agreeOn 0x1F a b) : decMonth a = decMonth b := by
  rw [decMonth, decMonth, get_eq_of_agreeOn .MON_TENS h (by decide), get_eq_of_agreeOn .MON_ONES h (by decide)]

/-! ### The obligations -/

/-- Settles O18: both registers are two digits with a tens field of three bits. -/
theorem secondsAndMinutesDecode : Obligations.SecondsAndMinutesDecode := fun b => by
  rw [decSec_eq, decMin_eq, decTwoDigits_eq_ite _ _ _ le_rfl, decTwoDigits_eq_ite _ _ _ le_rfl]
  simp only [Nat.not_lt_zero, false_or]
  exact ⟨rfl, rfl⟩

/-- Settles O19: by the mode bit, and in 12-hour mode by the policy. -/
theorem hoursDecode : Obligations.HoursDecode := by
  refine fun b => ⟨fun hmode policy => ?_, fun hmode => ⟨?_, ?_, ?_⟩⟩
  · rw [decHour_of_mode24 policy hmode, decHour24_eq, decTwoDigits_eq_ite _ _ _ (by omega), bits_hour_tens]
    simp only [Nat.not_lt_zero, false_or]
    rfl
  · rw [decHour_resolve_of_mode12 hmode, decHour12Resolve_eq, decTwoDigits_eq_ite _ _ _ (by omega),
      apply_ite (Except.map _), apply_ite (Except.map _)]
    rfl
  · exact decHour_reject_of_mode12 hmode
  · rw [decHour_source_of_mode12 hmode, decHour12Source_eq, decDigits_of_tens_le _ _ (bits_tens_le (by omega))]
    rfl

/-- Settles O20: the weekday is one field, the others two digits each, of which only the year's tens can be wrong. -/
theorem calendarRegistersDecode : Obligations.CalendarRegistersDecode := by
  refine fun b => ⟨decWday_eq b, ?_, ?_, fun epoch => ?_⟩
  · rw [decDay_eq, decTwoDigits_eq_ite _ _ _ (by omega)]
    rfl
  · rw [decMonth_eq, decTwoDigits_eq_ite _ _ _ (by omega)]
    rfl
  · rw [decYear_eq, decDigits_eq_ite, apply_ite (Except.map _)]
    rfl

end Sys2Proof.Machine
end

section
/-! Proofs: DT.DEC answers the record its seven registers decode to, or the first register's error
(41_datetime.md R120 to R133). -/

namespace Sys2Proof.Machine

/-! ### What exec answers -/

theorem exec_dtDec_of_ok {p : PackedDate} {s : State} {t : CalendarTime}
    (h : dtDec s.epochBase s.hour12Policy p = .ok t) :
    exec (.dtDec p) s = .next (s.setResponse (some (.ok (.calendar t)))) := by
  rw [exec_eq_respond, execResponse, execResult, h]
  rfl

theorem exec_dtDec_of_error {p : PackedDate} {s : State} {e : CodecError}
    (h : dtDec s.epochBase s.hour12Policy p = .error e) :
    exec (.dtDec p) s = .next (s.setResponse (some (.error e))) := by
  rw [exec_eq_respond, execResponse, execResult, h]
  rfl

theorem responseOf_dtDec_eq_calendar_iff {p : PackedDate} {s : State} {t : CalendarTime} :
    responseOf (exec (.dtDec p) s) = some (.ok (.calendar t)) ↔ dtDec s.epochBase s.hour12Policy p = .ok t := by
  rw [responseOf_exec, execResponse, execResult]
  cases dtDec s.epochBase s.hour12Policy p <;> simp [responseFrom, Except.map]

/-! ### A block that decodes -/

theorem calendarInRange_iff {epoch : EpochBase} {t : CalendarTime} : calendarInRange epoch t = true ↔
    t.second.toNat ≤ 59 ∧ t.minute.toNat ≤ 59 ∧ t.hour.toNat ≤ 23 ∧ (1 ≤ t.weekday.toNat ∧ t.weekday.toNat ≤ 7) ∧
    (1 ≤ t.day.toNat ∧ t.day.toNat ≤ 31) ∧ (1 ≤ t.month.toNat ∧ t.month.toNat ≤ 12) ∧
    epoch.val ≤ t.year.toNat ∧ t.year.toNat ≤ epoch.val + 99 := by
  simp [calendarInRange, and_assoc]

/-- Each register of the block decodes, by its own rule, to the field of the record. -/
structure DecodesTo (epoch : EpochBase) (policy : Hour12Policy) (p : PackedDate) (t : CalendarTime) : Prop where
  second  : decSec p.seconds = .ok t.second.toNat
  minute  : decMin p.minutes = .ok t.minute.toNat
  hour    : decHour policy p.hours = .ok t.hour.toNat
  weekday : decWday p.weekday = .ok t.weekday.toNat
  day     : decDay p.date = .ok t.day.toNat
  month   : decMonth p.monthCentury = .ok t.month.toNat
  year    : decYear epoch p.year = .ok t.year.toNat

theorem dtDec_of_decodesTo {epoch : EpochBase} {policy : Hour12Policy} {p : PackedDate} {t : CalendarTime}
    (h : DecodesTo epoch policy p t) : dtDec epoch policy p = .ok t := by
  rw [dtDec, h.second, h.minute, h.hour, h.weekday, h.day, h.month, h.year]
  show Except.ok _ = _
  simp

/-- A legal answer's value is in order. -/
theorem legalWith_ok {α : Type} {P : α → Prop} {r : Except CodecError α} {a : α} (hr : LegalWith P r)
    (h : r = .ok a) : P a := by
  subst h
  exact hr

/-- A legal value below 2^w is the value of a w-bit port field. -/
theorem exists_toNat_of_legal (w : Nat) {P : Nat → Prop} {r : Except CodecError Nat} {v : Nat} (hr : LegalWith P r)
    (hP : ∀ a, P a → a < 2 ^ w) (h : r = .ok v) : ∃ b : BitVec w, b.toNat = v := by
  exact ⟨BitVec.ofNat w v, by rw [BitVec.toNat_ofNat, Nat.mod_eq_of_lt (hP v (legalWith_ok hr h))]⟩

/-- No field is cut at its port's width: each decoded value is within its range, which fits there (10_state.md R26). -/
theorem exists_decodesTo {epoch : EpochBase} {policy : Hour12Policy} {p : PackedDate}
    {sec min hour wday day month year : Nat} (hsec : decSec p.seconds = .ok sec) (hmin : decMin p.minutes = .ok min)
    (hhour : decHour policy p.hours = .ok hour) (hwday : decWday p.weekday = .ok wday)
    (hday : decDay p.date = .ok day) (hmonth : decMonth p.monthCentury = .ok month)
    (hyear : decYear epoch p.year = .ok year) :
    ∃ t, DecodesTo epoch policy p t ∧ t.second.toNat = sec ∧ t.minute.toNat = min ∧ t.hour.toNat = hour ∧
      t.weekday.toNat = wday ∧ t.day.toNat = day ∧ t.month.toNat = month ∧ t.year.toNat = year := by
  have hepoch := epoch.isLt
  obtain ⟨sec, rfl⟩ := exists_toNat_of_legal 8 (decSec_legal _) (fun _ h => by omega) hsec
  obtain ⟨min, rfl⟩ := exists_toNat_of_legal 8 (decMin_legal _) (fun _ h => by omega) hmin
  obtain ⟨hour, rfl⟩ := exists_toNat_of_legal 8 (decHour_legal _ _) (fun _ h => by omega) hhour
  obtain ⟨wday, rfl⟩ := exists_toNat_of_legal 8 (decWday_legal _) (fun _ h => by omega) hwday
  obtain ⟨day, rfl⟩ := exists_toNat_of_legal 8 (decDay_legal _) (fun _ h => by omega) hday
  obtain ⟨month, rfl⟩ := exists_toNat_of_legal 8 (decMonth_legal _) (fun _ h => by omega) hmonth
  obtain ⟨year, rfl⟩ := exists_toNat_of_legal 16 (decYear_legal _ _) (fun _ h => by omega) hyear
  exact ⟨⟨sec, min, hour, wday, day, month, year⟩, ⟨hsec, hmin, hhour, hwday, hday, hmonth, hyear⟩,
    rfl, rfl, rfl, rfl, rfl, rfl, rfl⟩

theorem dtDec_eq_ok_iff {epoch : EpochBase} {policy : Hour12Policy} {p : PackedDate} {t : CalendarTime} :
    dtDec epoch policy p = .ok t ↔ DecodesTo epoch policy p t := by
  refine ⟨fun h => ?_, dtDec_of_decodesTo⟩
  obtain ⟨sec, hsec, h'⟩ := bind_eq_ok_iff.mp h
  obtain ⟨min, hmin, h'⟩ := bind_eq_ok_iff.mp h'
  obtain ⟨hour, hhour, h'⟩ := bind_eq_ok_iff.mp h'
  obtain ⟨wday, hwday, h'⟩ := bind_eq_ok_iff.mp h'
  obtain ⟨day, hday, h'⟩ := bind_eq_ok_iff.mp h'
  obtain ⟨month, hmonth, h'⟩ := bind_eq_ok_iff.mp h'
  obtain ⟨year, hyear, -⟩ := bind_eq_ok_iff.mp h'
  obtain ⟨u, hu, -⟩ := exists_decodesTo hsec hmin hhour hwday hday hmonth hyear
  cases h.symm.trans (dtDec_of_decodesTo hu)
  exact hu

theorem exec_dtDec_of_decodesTo {p : PackedDate} {s : State} {t : CalendarTime}
    (h : DecodesTo s.epochBase s.hour12Policy p t) :
    exec (.dtDec p) s = .next (s.setResponse (some (.ok (.calendar t)))) :=
  exec_dtDec_of_ok (dtDec_of_decodesTo h)

/-- 41_datetime.md R133: a decoded record is in range. -/
theorem DecodesTo.inRange {epoch : EpochBase} {policy : Hour12Policy} {p : PackedDate} {t : CalendarTime}
    (h : DecodesTo epoch policy p t) : calendarInRange epoch t = true :=
  (legalWith_ok (dtDec_legal epoch policy p) (dtDec_of_decodesTo h) :)

/-! ### A block that does not decode -/

/-- The error of an answer, if it is one. -/
def errorOf : Except CodecError Nat → Option CodecError
  | .error e => some e
  | .ok _ => none

/-- The first error of a list of answers ends a sequence that begins with the list's first answer. -/
theorem bind_eq_error_of_findSome? {α : Type} {r : Except CodecError Nat} {rs : List (Except CodecError Nat)}
    {f : Nat → Except CodecError α} {e : CodecError} (h : (r :: rs).findSome? errorOf = some e)
    (hf : ∀ a, rs.findSome? errorOf = some e → f a = .error e) : r >>= f = .error e := by
  cases r with
  | ok a => exact hf a h
  | error e' => cases h; rfl

/-- 41_datetime.md R120, R145: the first failing register in register order is the one reported. -/
theorem dtDec_eq_error {epoch : EpochBase} {policy : Hour12Policy} {p : PackedDate} {e : CodecError}
    (h : [decSec p.seconds, decMin p.minutes, decHour policy p.hours, decWday p.weekday, decDay p.date,
      decMonth p.monthCentury, decYear epoch p.year].findSome? errorOf = some e) :
    dtDec epoch policy p = .error e :=
  bind_eq_error_of_findSome? h fun _ h => bind_eq_error_of_findSome? h fun _ h =>
    bind_eq_error_of_findSome? h fun _ h => bind_eq_error_of_findSome? h fun _ h =>
    bind_eq_error_of_findSome? h fun _ h => bind_eq_error_of_findSome? h fun _ h =>
    bind_eq_error_of_findSome? h nofun

theorem dtDec_policy_of_mode24 (epoch : EpochBase) (policy policy' : Hour12Policy) {p : PackedDate}
    (h : bits p.hours 6 6 = 0) : dtDec epoch policy p = dtDec epoch policy' p := by
  rw [dtDec, dtDec, decHour_of_mode24 policy h, decHour_of_mode24 policy' h]

/-- 41_datetime.md R132. -/
theorem dtDec_eq_of_agreeOnUsedBits (epoch : EpochBase) (policy : Hour12Policy) {p q : PackedDate}
    (h : agreeOnUsedBits p q) : dtDec epoch policy p = dtDec epoch policy q := by
  obtain ⟨hsec, hmin, hhour, hwday, hday, hmonth, hyear⟩ := h
  rw [dtDec, dtDec, decSec_eq_of_agreeOn hsec, decMin_eq_of_agreeOn hmin, decHour_eq_of_agreeOn policy hhour,
    decWday_eq_of_agreeOn hwday, decDay_eq_of_agreeOn hday, decMonth_eq_of_agreeOn hmonth, hyear]

/-! ### The obligations -/

/-- Settles O21: a block whose registers decode, one with a first error, and the policy in 24-hour mode. -/
theorem dtDecDecodesInRegisterOrder : Obligations.DtDecDecodesInRegisterOrder := by
  refine fun p s => ⟨fun _ => rfl, ?_, fun e h => exec_dtDec_of_error (dtDec_eq_error h), fun u hmode hepoch => ?_⟩
  · intro sec min hour wday day month year hsec hmin hhour hwday hday hmonth hyear
    obtain ⟨t, ht, hvalues⟩ := exists_decodesTo hsec hmin hhour hwday hday hmonth hyear
    exact ⟨t, exec_dtDec_of_decodesTo ht, hvalues⟩
  · rw [responseOf_exec, responseOf_exec, execResponse, execResponse, execResult, execResult, hepoch,
      dtDec_policy_of_mode24 _ _ s.hour12Policy hmode]

/-- Settles O22: each register's rule at its digits; in 24-hour mode the hour is the digits in bits 5:4 and 3:0. -/
theorem dtDecReads24HourBlock : Obligations.DtDecReads24HourBlock := by
  intro p s hst hso hmt hmo hmode hho hhour hwday hdo hd1 hd31 hmono hmon1 hmon12 hyt hyo
  have hsec := (decSec_eq p.seconds).trans
    (decTwoDigits_of_digits 0 (bits_tens_le le_rfl) hso (Nat.zero_le _) (by omega))
  have hmin := (decMin_eq p.minutes).trans
    (decTwoDigits_of_digits 1 (bits_tens_le le_rfl) hmo (Nat.zero_le _) (by omega))
  have hhour24 := (decHour24_eq p.hours).trans
    (decTwoDigits_of_digits 2 (bits_tens_le (by omega)) hho (Nat.zero_le _) hhour)
  have hday := (decDay_eq p.date).trans (decTwoDigits_of_digits 4 (bits_tens_le (by omega)) hdo hd1 hd31)
  have hmonth := (decMonth_eq p.monthCentury).trans
    (decTwoDigits_of_digits 5 (bits_tens_le (by omega)) hmono hmon1 hmon12)
  have hyear : decYear s.epochBase p.year = .ok _ :=
    decYear_eq_ok_iff.mpr ⟨_, decTwoDigits_of_digits 6 hyt hyo (Nat.zero_le _) (by omega), rfl⟩
  obtain ⟨t, ht, hvalues⟩ := exists_decodesTo hsec hmin ((decHour_of_mode24 s.hour12Policy hmode).trans hhour24)
    (decWday_eq_ok_iff.mpr ⟨rfl, hwday⟩) hday hmonth hyear
  exact ⟨t, exec_dtDec_of_decodesTo ht, hvalues⟩

/-- Settles O23: the hours register folds by the RESOLVE rule; the other six decode as in the block without it. -/
theorem dtDecResolves12Hour : Obligations.DtDecResolves12Hour := by
  intro p s t hpolicy hmode hones hlo hhi hexec
  obtain ⟨hsec, hmin, -, hwday, hday, hmonth, hyear⟩ :=
    dtDec_eq_ok_iff.mp (responseOf_dtDec_eq_calendar_iff.mp (congrArg responseOf hexec))
  have hfold : decHour s.hour12Policy p.hours =
      .ok ((bits p.hours 4 4 * 10 + bits p.hours 3 0) % 12 + 12 * bits p.hours 5 5) := by
    rw [hpolicy, decHour_resolve_of_mode12 hmode, decHour12Resolve_eq,
      decTwoDigits_of_digits 2 (bits_tens_le (by omega)) hones hlo hhi, twelve_mul_bit]
    rfl
  obtain ⟨h, hh⟩ := exists_toNat_of_legal 8 (decHour_legal _ _) (fun _ h => by omega) hfold
  exact ⟨h, exec_dtDec_of_decodesTo ⟨hsec, hmin, hh ▸ hfold, hwday, hday, hmonth, hyear⟩, hh⟩

/-- Settles O24: `dtDec_legal` gives the ranges, and one tens bit the 19. -/
theorem decodedCalendarInRange : Obligations.DecodedCalendarInRange := by
  intro p s t h
  have hdec := dtDec_eq_ok_iff.mp (responseOf_dtDec_eq_calendar_iff.mp h)
  obtain ⟨hsec, hmin, hhour, ⟨hw1, hw7⟩, ⟨hd1, hd31⟩, ⟨hm1, hm12⟩, hylo, hyhi⟩ := calendarInRange_iff.mp hdec.inRange
  refine ⟨hsec, hmin, hhour, hw1, hw7, hd1, hd31, hm1, hm12, hylo, hyhi, fun hpolicy hmode => ?_⟩
  have hsource := hdec.hour
  rw [hpolicy, decHour_source_of_mode12 hmode] at hsource
  exact (legalWith_ok (decHour12Source_legal _) hsource :)

/-- Settles O25: a register's rule reads no unused bit. -/
theorem unusedBitsIgnored : Obligations.UnusedBitsIgnored := fun p q s h => by
  rw [exec_eq_respond, exec_eq_respond, execResponse, execResponse, execResult, execResult,
    dtDec_eq_of_agreeOnUsedBits _ _ h]

end Sys2Proof.Machine
end

section
/-! Proofs: DT.ENC packs a record in range into its seven registers, and DT.DEC undoes it
(41_datetime.md R134 to R146). -/

namespace Sys2Proof.Machine

/-! ### What exec answers -/

theorem exec_dtEnc_of_ok {t : CalendarTime} {s : State} {p : PackedDate} (h : dtEnc s.epochBase t = .ok p) :
    exec (.dtEnc t) s = .next (s.setResponse (some (.ok (.registers p)))) := by
  rw [exec_eq_respond, execResponse, execResult, h]
  rfl

theorem exec_dtEnc_of_error {t : CalendarTime} {s : State} {e : CodecError} (h : dtEnc s.epochBase t = .error e) :
    exec (.dtEnc t) s = .next (s.setResponse (some (.error e))) := by
  rw [exec_eq_respond, execResponse, execResult, h]
  rfl

theorem responseOf_dtEnc_eq_registers_iff {t : CalendarTime} {s : State} {p : PackedDate} :
    responseOf (exec (.dtEnc t) s) = some (.ok (.registers p)) ↔ dtEnc s.epochBase t = .ok p := by
  rw [responseOf_exec, execResponse, execResult]
  cases dtEnc s.epochBase t <;> simp [responseFrom, Except.map]

/-! ### A record in range, and one out of range -/

/-- The seven register bytes of a record (41_datetime.md R135 to R140). -/
def encodedBlock (epoch : EpochBase) (t : CalendarTime) : PackedDate where
  seconds := encSec t.second.toNat
  minutes := encMin t.minute.toNat
  hours := encHour t.hour.toNat
  weekday := encWday t.weekday.toNat
  date := encDay t.day.toNat
  monthCentury := encMonth t.month.toNat
  year := encYear epoch t.year.toNat

theorem checkRange_eq_ok_iff {i lo hi v : Nat} {u : Unit} : checkRange i lo hi v = .ok u ↔ lo ≤ v ∧ v ≤ hi := by
  unfold checkRange
  split
  case isTrue h => exact ⟨nofun, fun _ => by omega⟩
  case isFalse h => exact ⟨fun _ => by omega, fun _ => rfl⟩

/-- The seven range checks in sequence: DT.ENC accepts exactly the records in range (41_datetime.md R134). -/
theorem dtEnc_eq_ok_iff {epoch : EpochBase} {t : CalendarTime} {p : PackedDate} :
    dtEnc epoch t = .ok p ↔ calendarInRange epoch t = true ∧ encodedBlock epoch t = p := by
  rw [calendarInRange_iff]
  simp [dtEnc, bind_eq_ok_iff, checkRange_eq_ok_iff, encodedBlock, pure, Except.pure, and_assoc]

theorem exec_dtEnc_of_inRange {t : CalendarTime} {s : State} (h : calendarInRange s.epochBase t = true) :
    exec (.dtEnc t) s = .next (s.setResponse (some (.ok (.registers (encodedBlock s.epochBase t))))) :=
  exec_dtEnc_of_ok (dtEnc_eq_ok_iff.mpr ⟨h, rfl⟩)

/-- The first failing condition of a list ends a sequence of range checks that begins with the list's first one. -/
theorem checkRange_bind_eq_error {α : Type} {k lo hi v i : Nat} {ok : Bool} {oks : List Bool}
    {f : Unit → Except CodecError α} (h : (ok :: oks).findIdx? (fun b => !b) = some i)
    (hok : ok = true ↔ lo ≤ v ∧ v ≤ hi)
    (hf : ∀ j, oks.findIdx? (fun b => !b) = some j → f () = .error (rangeErrorAt (k + 1 + j))) :
    checkRange k lo hi v >>= f = .error (rangeErrorAt (k + i)) := by
  rw [List.findIdx?_cons] at h
  cases ok with
  | false =>
    cases h
    rw [checkRange, if_pos (by simp at hok; omega)]
    rfl
  | true =>
    obtain ⟨j, hj, rfl⟩ : ∃ j, oks.findIdx? (fun b => !b) = some j ∧ j + 1 = i := by simpa using h
    rw [checkRange_eq_ok_iff.mpr (hok.mp rfl), Nat.add_comm j, ← Nat.add_assoc]
    exact hf j hj

/-- 41_datetime.md R134, R145: the first field out of range in register order is the one reported. -/
theorem dtEnc_eq_error {epoch : EpochBase} {t : CalendarTime} {i : Nat}
    (h : [decide (t.second.toNat ≤ 59), decide (t.minute.toNat ≤ 59), decide (t.hour.toNat ≤ 23),
      decide (1 ≤ t.weekday.toNat ∧ t.weekday.toNat ≤ 7), decide (1 ≤ t.day.toNat ∧ t.day.toNat ≤ 31),
      decide (1 ≤ t.month.toNat ∧ t.month.toNat ≤ 12),
      decide (epoch.val ≤ t.year.toNat ∧ t.year.toNat ≤ epoch.val + 99)].findIdx? (fun b => !b) = some i) :
    dtEnc epoch t = .error (rangeErrorAt i) := by
  rw [← Nat.zero_add i]
  exact checkRange_bind_eq_error h (by simp) fun _ h => checkRange_bind_eq_error h (by simp) fun _ h =>
    checkRange_bind_eq_error h (by simp) fun _ h => checkRange_bind_eq_error h decide_eq_true_iff fun _ h =>
    checkRange_bind_eq_error h decide_eq_true_iff fun _ h =>
    checkRange_bind_eq_error h decide_eq_true_iff fun _ h =>
    checkRange_bind_eq_error h decide_eq_true_iff nofun

/-! ### The register bytes decode to what they encode -/

/-- The tens digit of a packed number stands in as many bits as it needs (40_bcd.md R106). -/
theorem bits_bcdByte_tens_of_lt {v hi : Nat} (hv : v ≤ 99) (htens : v / 10 < 2 ^ (hi - 4 + 1)) :
    bits (bcdByte v) hi 4 = v / 10 := by
  have hdiv : (bcdByte v).toNat / 2 ^ 4 = v / 10 := by
    rw [bcdByte_toNat hv]
    omega
  rw [bits, Nat.shiftRight_eq_div_pow, hdiv, Nat.mod_eq_of_lt htens]

theorem decTwoDigits_bcdByte {hi lo top v : Nat} (i : Nat) (hlo : lo ≤ v) (htop : v ≤ top) (hv : v ≤ 99)
    (htens : v / 10 < 2 ^ (hi - 4 + 1)) : decTwoDigits i hi lo top (bcdByte v) = .ok v := by
  rw [decTwoDigits_eq_ok_iff, bits_bcdByte_tens_of_lt hv htens, bits_bcdByte_ones hv]
  omega

/-- The bit-20 convention is BCD: a tens digit of 2 is bit 5 (41_datetime.md R136, R143). -/
theorem encHour_eq_bcdByte : ∀ h < 24, encHour h = bcdByte h := by
  decide

theorem decSec_encSec {v : Nat} (h : v ≤ 59) : decSec (encSec v) = .ok v := by
  rw [decSec_eq, encSec, decTwoDigits_bcdByte] <;> omega

theorem decMin_encMin {v : Nat} (h : v ≤ 59) : decMin (encMin v) = .ok v := by
  rw [decMin_eq, encMin, decTwoDigits_bcdByte] <;> omega

theorem decHour24_encHour {v : Nat} (h : v ≤ 23) : decHour24 (encHour v) = .ok v := by
  rw [decHour24_eq, encHour_eq_bcdByte v (by omega), decTwoDigits_bcdByte] <;> omega

theorem decWday_encWday : ∀ v ≤ 7, 1 ≤ v → decWday (encWday v) = .ok v := by
  decide

theorem decDay_encDay {v : Nat} (h1 : 1 ≤ v) (h31 : v ≤ 31) : decDay (encDay v) = .ok v := by
  rw [decDay_eq, encDay, decTwoDigits_bcdByte] <;> omega

theorem decMonth_encMonth {v : Nat} (h1 : 1 ≤ v) (h12 : v ≤ 12) : decMonth (encMonth v) = .ok v := by
  rw [decMonth_eq, encMonth, decTwoDigits_bcdByte] <;> omega

theorem decYear_encYear {epoch : EpochBase} {y : Nat} (hlo : epoch.val ≤ y) (hhi : y ≤ epoch.val + 99) :
    decYear epoch (encYear epoch y) = .ok y :=
  decYear_eq_ok_iff.mpr ⟨_, decTwoDigits_bcdByte 6 (Nat.zero_le _) (by omega) (by omega) (by omega), by omega⟩

/-- The hours byte of DT.ENC is in 24-hour mode. -/
theorem bits_encHour_mode : ∀ h < 24, bits (encHour h) 6 6 = 0 := by
  decide

/-- 41_datetime.md R142. -/
theorem decodesTo_encodedBlock {epoch : EpochBase} {t : CalendarTime} (policy : Hour12Policy)
    (h : calendarInRange epoch t = true) : DecodesTo epoch policy (encodedBlock epoch t) t := by
  obtain ⟨hsec, hmin, hhour, ⟨hw1, hw7⟩, ⟨hd1, hd31⟩, ⟨hm1, hm12⟩, hylo, hyhi⟩ := calendarInRange_iff.mp h
  have hmode := bits_encHour_mode _ (Nat.lt_succ_of_le hhour)
  exact ⟨decSec_encSec hsec, decMin_encMin hmin, (decHour_of_mode24 policy hmode).trans (decHour24_encHour hhour),
    decWday_encWday _ hw7 hw1, decDay_encDay hd1 hd31, decMonth_encMonth hm1 hm12, decYear_encYear hylo hyhi⟩

/-! ### What a register decodes to encodes to its used bits -/

/-- Packing the digits of a register leaves its bits hi:0 and clears those above. -/
theorem bcdByte_of_decTwoDigits {i hi lo top v : Nat} {b : Byte} (h : decTwoDigits i hi lo top b = .ok v)
    (h4 : 4 ≤ hi) (h7 : hi ≤ 7) : bcdByte v = b &&& BitVec.ofNat 8 (2 ^ (hi + 1) - 1) := by
  obtain ⟨htens, hones, rfl, -, -⟩ := decTwoDigits_eq_ok_iff.mp h
  have hmask : 2 ^ (hi + 1) - 1 < 2 ^ 8 := by
    have hpow : 2 ^ (hi + 1) ≤ 2 ^ 8 := Nat.pow_le_pow_right Nat.two_pos (by omega)
    omega
  have hsplit : 2 ^ (hi + 1) = 2 ^ 4 * 2 ^ (hi - 4 + 1) := by
    rw [← Nat.pow_add]
    congr 1
    omega
  apply BitVec.eq_of_toNat_eq
  rw [BitVec.toNat_and, BitVec.toNat_ofNat, Nat.mod_eq_of_lt hmask, Nat.and_two_pow_sub_one_eq_mod, hsplit, Nat.mod_mul,
    ← Nat.shiftRight_eq_div_pow, ← bits, bcdByte_toNat (by omega)]
  rw [bits_low_nibble] at hones ⊢
  omega

theorem encSec_of_decSec {b : Byte} {v : Nat} (h : decSec b = .ok v) : encSec v = b &&& 0x7F :=
  bcdByte_of_decTwoDigits ((decSec_eq b).symm.trans h) (by omega) (by omega)

theorem encMin_of_decMin {b : Byte} {v : Nat} (h : decMin b = .ok v) : encMin v = b &&& 0x7F :=
  bcdByte_of_decTwoDigits ((decMin_eq b).symm.trans h) (by omega) (by omega)

theorem encHour_of_decHour24 {b : Byte} {v : Nat} (h : decHour24 b = .ok v) : encHour v = b &&& 0x3F := by
  have hv : v ≤ 23 := (legalWith_ok (decHour24_legal b) h :)
  rw [encHour_eq_bcdByte v (by omega)]
  exact bcdByte_of_decTwoDigits ((decHour24_eq b).symm.trans h) (by omega) (by omega)

theorem ofNat_bits_weekday : ∀ b : Byte, BitVec.ofNat 8 (bits b 2 0) = b &&& 0x07 := by
  decide

theorem encWday_of_decWday {b : Byte} {v : Nat} (h : decWday b = .ok v) : encWday v = b &&& 0x07 := by
  obtain ⟨rfl, -⟩ := decWday_eq_ok_iff.mp h
  exact ofNat_bits_weekday b

theorem encDay_of_decDay {b : Byte} {v : Nat} (h : decDay b = .ok v) : encDay v = b &&& 0x3F :=
  bcdByte_of_decTwoDigits ((decDay_eq b).symm.trans h) (by omega) (by omega)

theorem encMonth_of_decMonth {b : Byte} {v : Nat} (h : decMonth b = .ok v) : encMonth v = b &&& 0x1F :=
  bcdByte_of_decTwoDigits ((decMonth_eq b).symm.trans h) (by omega) (by omega)

theorem encYear_of_decYear {epoch : EpochBase} {b : Byte} {y : Nat} (h : decYear epoch b = .ok y) :
    encYear epoch y = b := by
  obtain ⟨v, hv, rfl⟩ := decYear_eq_ok_iff.mp h
  rw [encYear, Nat.add_sub_cancel_left, bcdByte_of_decTwoDigits hv (by omega) (by omega)]
  exact BitVec.and_allOnes

/-- 41_datetime.md R144, in 24-hour mode. -/
theorem encodedBlock_of_decodesTo {epoch : EpochBase} {policy : Hour12Policy} {p : PackedDate} {t : CalendarTime}
    (h : DecodesTo epoch policy p t) (hmode : bits p.hours 6 6 = 0) : encodedBlock epoch t = clearUnusedBits p := by
  rw [encodedBlock, encSec_of_decSec h.second, encMin_of_decMin h.minute,
    encHour_of_decHour24 (decHour_of_mode24 policy hmode ▸ h.hour), encWday_of_decWday h.weekday,
    encDay_of_decDay h.day, encMonth_of_decMonth h.month, encYear_of_decYear h.year, clearUnusedBits]

/-! ### The obligations -/

/-- Settles O28: DT.ENC accepts a record in range only, and each of its bytes decodes to the field it encodes. -/
theorem dateRoundTrip : Obligations.DateRoundTrip := by
  intro t s u p h hepoch
  obtain ⟨hrange, rfl⟩ := dtEnc_eq_ok_iff.mp (responseOf_dtEnc_eq_registers_iff.mp h)
  rw [← hepoch] at hrange ⊢
  exact exec_dtDec_of_decodesTo (decodesTo_encodedBlock _ hrange)

/-- Settles O26: a record in range has its packed block, of which the hour is BCD too; any other has a first
bad field. -/
theorem dtEncEncodesOrRefuses : Obligations.DtEncEncodesOrRefuses := by
  refine ⟨fun _ _ _ _ _ _ _ _ _ => rfl, fun t s => ⟨fun hok => ?_, fun i h => exec_dtEnc_of_error ?_⟩⟩
  · have hrange : calendarInRange s.epochBase t = true := by
      simpa [calendarInRange, and_assoc] using hok
    obtain ⟨hsec, hmin, hhour, ⟨hw1, hw7⟩, ⟨hd1, hd31⟩, ⟨hm1, hm12⟩, hylo, hyhi⟩ := calendarInRange_iff.mp hrange
    refine ⟨_, exec_dtEnc_of_inRange hrange, bcdByte_toNat (by omega), bcdByte_toNat (by omega),
      encHour_toNat _ (by omega), ?_, BitVec.ofNat_toNat .., bcdByte_toNat (by omega), bcdByte_toNat (by omega),
      bcdByte_toNat (by omega)⟩
    rw [exec_bcdEnc_of_le (by omega), encodedBlock, encHour_eq_bcdByte _ (by omega)]
  · exact dtEnc_eq_error h

/-- Settles O27: `dtEnc_legal` at the block answered. -/
theorem dtEncClearsUnusedBits : Obligations.DtEncClearsUnusedBits := by
  intro t s p h
  have hclear : unusedBitsClear p = true :=
    (legalWith_ok (dtEnc_legal s.epochBase t) (responseOf_dtEnc_eq_registers_iff.mp h) :)
  simpa [unusedBitsClear, and_assoc] using hclear

/-- Settles O29: an hour from 20 on takes the bit-20 branch, and the 24-hour rule reads it back. -/
theorem bit20Regression : Obligations.Bit20Regression := by
  intro t s hrange h20
  obtain ⟨-, -, hhour, -⟩ := calendarInRange_iff.mp hrange
  exact ⟨_, exec_dtEnc_of_inRange hrange, (encHour_toNat _ (by omega)).trans (if_pos h20), decHour24_encHour hhour⟩

/-- Settles O30: a decoded record is in range, so it encodes, always to 24-hour mode. -/
theorem encodeAfterDecode : Obligations.EncodeAfterDecode := by
  intro p s t h
  have hdec := dtDec_eq_ok_iff.mp (responseOf_dtDec_eq_calendar_iff.mp h)
  obtain ⟨-, -, hhour, -⟩ := calendarInRange_iff.mp hdec.inRange
  refine ⟨_, exec_dtEnc_of_inRange hdec.inRange, encodedBlock_of_decodesTo hdec, fun hmode hpolicy => ?_,
    fun hmode heq => ?_⟩
  · have hfold := hdec.hour
    rw [hpolicy, decHour_resolve_of_mode12 hmode] at hfold
    rw [hfold]
    exact decHour24_encHour hhour
  · have hmode24 : bits p.hours 6 6 = 0 := heq ▸ bits_encHour_mode _ (Nat.lt_succ_of_le hhour)
    omega

/-- Settles O31: DT.ENC accepts the records in range, DT.DEC the blocks of which each register decodes. -/
theorem noCrossFieldValidation : Obligations.NoCrossFieldValidation := by
  refine ⟨fun t s => ?_, fun p s => ?_⟩
  · simp only [responseOf_dtEnc_eq_registers_iff, dtEnc_eq_ok_iff, exists_and_left, exists_eq', and_true]
    exact calendarInRange_iff
  · simp only [responseOf_dtDec_eq_calendar_iff, dtDec_eq_ok_iff, isOk_iff]
    constructor
    · rintro ⟨t, ht⟩
      exact ⟨⟨_, ht.second⟩, ⟨_, ht.minute⟩, ⟨_, ht.hour⟩, ⟨_, ht.weekday⟩, ⟨_, ht.day⟩, ⟨_, ht.month⟩, ⟨_, ht.year⟩⟩
    · rintro ⟨⟨_, hsec⟩, ⟨_, hmin⟩, ⟨_, hhour⟩, ⟨_, hwday⟩, ⟨_, hday⟩, ⟨_, hmonth⟩, ⟨_, hyear⟩⟩
      obtain ⟨t, ht, -⟩ := exists_decodesTo hsec hmin hhour hwday hday hmonth hyear
      exact ⟨t, ht⟩

end Sys2Proof.Machine
end

section
/-! Proofs: the register field packer. Which masks are legal (42_field.md R162), what FLD.GET and FLD.SET answer
(R160, R161), and the laws of a field's bits (R163 to R166). -/

namespace Sys2Proof.Machine

/-! ### The legal masks -/

theorem runMask_toNat {w l : Nat} (h : l + w ≤ 8) : (runMask w l).toNat = (2 ^ w - 1) <<< l := by
  have hw := Nat.two_pow_pos w
  rw [runMask, BitVec.toNat_ofNat, Nat.shiftLeft_eq, Nat.mod_eq_of_lt]
  calc (2 ^ w - 1) * 2 ^ l < 2 ^ w * 2 ^ l := Nat.mul_lt_mul_of_pos_right (by omega) (Nat.two_pow_pos l)
    _ = 2 ^ (l + w) := by rw [pow_add, Nat.mul_comm]
    _ ≤ 2 ^ 8 := Nat.pow_le_pow_right two_pos h

/-- The mask of w bits from bit l has just those bits. -/
theorem getLsbD_runMask {w l i : Nat} (h : l + w ≤ 8) :
    (runMask w l).getLsbD i = decide (l ≤ i ∧ i < l + w) := by
  rw [BitVec.getLsbD, runMask_toNat h, Nat.testBit_shiftLeft, Nat.testBit_two_pow_sub_one, ← Bool.decide_and]
  exact decide_eq_decide.mpr (by omega)

theorem ctz_runMask {w l : Nat} (hw : 1 ≤ w) (h : l + w ≤ 8) : ctz (runMask w l) = l := by
  have hfind : (List.range 8).find? (fun i => (runMask w l).getLsbD i) = some l := by
    simp only [List.find?_range_eq_some, getLsbD_runMask h, List.mem_range]
    refine ⟨decide_eq_true (by omega), by omega, fun j hj => ?_⟩
    rw [decide_eq_false (by omega), Bool.not_false]
  rw [ctz, hfind, Option.getD_some]

theorem popcount_runMask {w l : Nat} (h : l + w ≤ 8) : popcount (runMask w l) = w := by
  have hruns : ∀ w ≤ 8, ∀ l ≤ 8 - w, popcount (runMask w l) = w := by decide
  exact hruns w (by omega) l (by omega)

theorem contiguous_iff_shift (m : Byte) :
    contiguous m = true ↔ m ≠ 0 ∧ m.toNat >>> ctz m = 2 ^ popcount m - 1 := by
  rw [contiguous, Bool.and_eq_true, bne_iff_ne, beq_iff_eq]

theorem contiguous_runMask {w l : Nat} (hw : 1 ≤ w) (h : l + w ≤ 8) : contiguous (runMask w l) = true := by
  refine (contiguous_iff_shift _).mpr ⟨fun hzero => ?_, ?_⟩
  · have hbit : (runMask w l).getLsbD l = true := (getLsbD_runMask h).trans (decide_eq_true (by omega))
    rw [hzero] at hbit
    cases BitVec.getLsbD_zero.symm.trans hbit
  · rw [ctz_runMask hw h, popcount_runMask h, runMask_toNat h, Nat.shiftLeft_shiftRight]

/-- A mask whose bits, moved down to bit 0, are all ones is that many ones from its lowest bit up. -/
theorem eq_runMask_of_contiguous {m : Byte} (h : contiguous m = true) : runMask (popcount m) (ctz m) = m := by
  obtain ⟨-, hones⟩ := (contiguous_iff_shift m).mp h
  calc runMask (popcount m) (ctz m) = BitVec.ofNat 8 ((m >>> ctz m).toNat <<< ctz m) := by
        rw [runMask, BitVec.toNat_ushiftRight, hones]
    _ = m >>> ctz m <<< ctz m := rfl
    _ = m := shiftRight_shiftLeft_ctz m

theorem one_le_popcount {m : Byte} (h : contiguous m = true) : 1 ≤ popcount m := by
  obtain ⟨hne, -⟩ := (contiguous_iff_shift m).mp h
  by_contra hzero
  have hm := eq_runMask_of_contiguous h
  rw [Nat.lt_one_iff.mp (not_le.mp hzero), runMask, pow_zero, Nat.sub_self, Nat.zero_shiftLeft] at hm
  exact hne hm.symm

theorem ctz_add_popcount_le {m : Byte} (h : contiguous m = true) : ctz m + popcount m ≤ 8 := by
  obtain ⟨-, hones⟩ := (contiguous_iff_shift m).mp h
  have hw := one_le_popcount h
  have hpow : 2 ^ (popcount m - 1) < 2 ^ popcount m := Nat.pow_lt_pow_right one_lt_two (by omega)
  have hlt : 2 ^ (popcount m - 1 + ctz m) < 2 ^ 8 := calc
    2 ^ (popcount m - 1 + ctz m) = 2 ^ (popcount m - 1) * 2 ^ ctz m := pow_add _ _ _
    _ ≤ (2 ^ popcount m - 1) * 2 ^ ctz m := Nat.mul_le_mul_right _ (Nat.le_sub_one_of_lt hpow)
    _ = m.toNat / 2 ^ ctz m * 2 ^ ctz m := by rw [← hones, Nat.shiftRight_eq_div_pow]
    _ ≤ m.toNat := Nat.div_mul_le_self _ _
    _ < 2 ^ 8 := m.isLt
  have htop := (Nat.pow_lt_pow_iff_right one_lt_two).mp hlt
  omega

/-- 42_field.md R162: the legal masks are the runs of w ones from bit l up. -/
theorem contiguous_iff_runMask (m : Byte) :
    contiguous m = true ↔ ∃ w l, 1 ≤ w ∧ l + w ≤ 8 ∧ m = runMask w l := by
  constructor
  · exact fun h => ⟨_, _, one_le_popcount h, ctz_add_popcount_le h, (eq_runMask_of_contiguous h).symm⟩
  · rintro ⟨w, l, hw, hfits, rfl⟩
    exact contiguous_runMask hw hfits

theorem not_contiguous_of_ne_runMask {m : Byte} (h : ∀ w l, 1 ≤ w → l + w ≤ 8 → m ≠ runMask w l) :
    contiguous m = false := by
  refine Bool.eq_false_iff.mpr fun hm => ?_
  obtain ⟨w, l, hw, hfits, hrun⟩ := (contiguous_iff_runMask m).mp hm
  exact h w l hw hfits hrun

/-! ### How many legal masks there are -/

/-- The widths and lowest bits of the legal masks. -/
def legalRuns : Finset (Nat × Nat) := (Finset.range 9 ×ˢ Finset.range 8).filter fun r => 1 ≤ r.1 ∧ r.2 + r.1 ≤ 8

theorem mem_legalRuns (r : Nat × Nat) : r ∈ legalRuns ↔ 1 ≤ r.1 ∧ r.2 + r.1 ≤ 8 := by
  simp only [legalRuns, Finset.mem_filter, Finset.mem_product, Finset.mem_range]
  omega

/-- The bytes that are legal masks. -/
def legalMaskNumbers : Finset Nat :=
  ((List.range 256).filter fun n => contiguous (BitVec.ofNat 8 n)).toFinset

theorem mem_legalMaskNumbers (n : Nat) :
    n ∈ legalMaskNumbers ↔ n < 256 ∧ contiguous (BitVec.ofNat 8 n) = true := by
  simp [legalMaskNumbers]

/-- A legal mask determines its width and lowest bit, and they determine it. -/
theorem card_legalMaskNumbers : legalMaskNumbers.card = legalRuns.card := by
  refine Finset.card_nbij' (fun n => (popcount (BitVec.ofNat 8 n), ctz (BitVec.ofNat 8 n)))
    (fun r => (runMask r.1 r.2).toNat) (fun n hn => ?_) (fun r hr => ?_) (fun n hn => ?_) (fun r hr => ?_)
  · obtain ⟨-, hm⟩ := (mem_legalMaskNumbers n).mp hn
    exact (mem_legalRuns _).mpr ⟨one_le_popcount hm, ctz_add_popcount_le hm⟩
  · obtain ⟨hw, hfits⟩ := (mem_legalRuns r).mp hr
    refine (mem_legalMaskNumbers _).mpr ⟨(runMask r.1 r.2).isLt, ?_⟩
    rw [BitVec.ofNat_toNat, BitVec.setWidth_eq, contiguous_runMask hw hfits]
  · obtain ⟨hlt, hm⟩ := (mem_legalMaskNumbers n).mp hn
    simp only [eq_runMask_of_contiguous hm, BitVec.toNat_ofNat]
    exact Nat.mod_eq_of_lt hlt
  · obtain ⟨hw, hfits⟩ := (mem_legalRuns r).mp hr
    simp only [BitVec.ofNat_toNat, BitVec.setWidth_eq, popcount_runMask hfits, ctz_runMask hw hfits]

theorem countP_contiguous : ((List.range 256).countP fun n => contiguous (BitVec.ofNat 8 n)) = 36 := by
  calc _ = legalMaskNumbers.card := by
        rw [List.countP_eq_length_filter, legalMaskNumbers, List.toFinset_card_of_nodup (List.nodup_range.filter _)]
    _ = legalRuns.card := card_legalMaskNumbers
    _ = 36 := by decide

/-! ### The masks of the field table -/

/-- A field's mask is a run of the width its row says (20_memory.md R43). -/
theorem field_mask_run (f : ChipField) : f.row.lo + (f.row.hi - f.row.lo + 1) ≤ 8 ∧
    f.mask = runMask (f.row.hi - f.row.lo + 1) f.row.lo := by
  obtain ⟨hrun, -, -⟩ := fieldTableIsAPartition
  obtain ⟨hlo, hhi, hmask⟩ := hrun f
  exact ⟨by omega, hmask⟩

theorem contiguous_field (f : ChipField) : contiguous f.mask = true := by
  obtain ⟨hfits, hmask⟩ := field_mask_run f
  exact hmask ▸ contiguous_runMask (Nat.le_add_left 1 _) hfits

theorem popcount_field (f : ChipField) : popcount f.mask = f.row.hi - f.row.lo + 1 := by
  obtain ⟨hfits, hmask⟩ := field_mask_run f
  exact hmask ▸ popcount_runMask hfits

theorem StatusFlag.field_injective {f g : StatusFlag} (h : f.field = g.field) : f = g := by
  cases f <;> cases g <;> cases h <;> rfl

theorem ControlFlag.field_injective {f g : ControlFlag} (h : f.field = g.field) : f = g := by
  cases f <;> cases g <;> cases h <;> rfl

/-- No flag is a half of RS (42_field.md R165). -/
theorem StatusFlag.field_ne_half (f : StatusFlag) : ¬(f.field = .RS2 ∨ f.field = .RS1) := by
  cases f <;> decide

theorem ControlFlag.field_ne_half (f : ControlFlag) : ¬(f.field = .RS2 ∨ f.field = .RS1) := by
  cases f <;> decide

theorem StatusFlag.field_reg (f : StatusFlag) : f.field.row.reg = .STATUS := by cases f <;> rfl

theorem ControlFlag.field_reg (f : ControlFlag) : f.field.row.reg = .CONTROL := by cases f <;> rfl

/-- Two fields of one register that are no halves of RS share no bit (20_memory.md R43). -/
theorem field_disjoint {f g : ChipField} (hne : f ≠ g) (hreg : f.row.reg = g.row.reg)
    (hf : ¬(f = .RS2 ∨ f = .RS1)) (hg : ¬(g = .RS2 ∨ g = .RS1)) : f.mask &&& g.mask = 0 := by
  obtain ⟨-, hdisjoint, -⟩ := fieldTableIsAPartition
  exact hdisjoint f g hne hreg (fun ⟨_, hhalf⟩ => hg hhalf) (fun ⟨_, hhalf⟩ => hf hhalf)

/-! ### A field's bits -/

/-- A field that is read and moved back stands where it stood. -/
theorem maskedValue_shiftLeft_ctz (b m : Byte) : maskedValue b m <<< ctz m = b &&& m := by
  ext i hi
  have hm : (m >>> ctz m <<< ctz m)[i] = m[i] := by rw [shiftRight_shiftLeft_ctz]
  rw [maskedValue]
  by_cases hlow : i < ctz m
  · have hout : m[i] = false := by simpa [hlow] using hm.symm
    simp [hlow, hout]
  · simp [hlow, Nat.add_sub_of_le (not_lt.mp hlow), BitVec.getLsbD_eq_getElem hi]

/-- The value of a field fits in its width. -/
theorem maskedValue_lt (b : Byte) {m : Byte} (h : contiguous m = true) : (maskedValue b m).toNat < 2 ^ popcount m := by
  obtain ⟨-, hones⟩ := (contiguous_iff_shift m).mp h
  have hw := Nat.two_pow_pos (popcount m)
  rw [maskedValue, BitVec.toNat_ushiftRight, BitVec.toNat_and, Nat.shiftRight_and_distrib, hones]
  exact Nat.and_lt_two_pow _ (by omega)

/-- A value that fits, moved to the field, has no bit outside the mask. -/
theorem shiftLeft_ctz_and_mask {m v : Byte} (h : contiguous m = true) (hv : v.toNat < 2 ^ popcount m) :
    v <<< ctz m &&& m = v <<< ctz m := by
  obtain ⟨-, hones⟩ := (contiguous_iff_shift m).mp h
  have hlow : v &&& m >>> ctz m = v := by
    apply BitVec.eq_of_toNat_eq
    rw [BitVec.toNat_and, BitVec.toNat_ushiftRight, hones, Nat.and_two_pow_sub_one_eq_mod, Nat.mod_eq_of_lt hv]
  calc v <<< ctz m &&& m = (v &&& m >>> ctz m) <<< ctz m := by
        rw [BitVec.shiftLeft_and_distrib, shiftRight_shiftLeft_ctz]
    _ = v <<< ctz m := by rw [hlow]

/-- A value that fits is not cut off at the top of the byte. -/
theorem shiftLeft_shiftRight_ctz {m v : Byte} (h : contiguous m = true) (hv : v.toNat < 2 ^ popcount m) :
    v <<< ctz m >>> ctz m = v := by
  have hlt : v.toNat <<< ctz m < 2 ^ 8 := calc
    v.toNat <<< ctz m = v.toNat * 2 ^ ctz m := Nat.shiftLeft_eq _ _
    _ < 2 ^ popcount m * 2 ^ ctz m := Nat.mul_lt_mul_of_pos_right hv (Nat.two_pow_pos _)
    _ = 2 ^ (ctz m + popcount m) := by rw [pow_add, Nat.mul_comm]
    _ ≤ 2 ^ 8 := Nat.pow_le_pow_right two_pos (ctz_add_popcount_le h)
  apply BitVec.eq_of_toNat_eq
  rw [BitVec.toNat_ushiftRight, BitVec.toNat_shiftLeft, Nat.mod_eq_of_lt hlt, Nat.shiftLeft_shiftRight]

/-- FLD.SET of a value that fits puts the byte together by the mask. -/
theorem packField_eq_merge (b : Byte) {m v : Byte} (h : contiguous m = true) (hv : v.toNat < 2 ^ popcount m) :
    packField b m v = (b &&& ~~~m) ||| (v <<< ctz m &&& m) := by
  rw [packField, shiftLeft_ctz_and_mask h hv]

/-- A byte is put together of what a mask takes and what it leaves. -/
theorem and_not_or_and (b m : Byte) : (b &&& ~~~m) ||| (b &&& m) = b := by
  ext i
  simp only [BitVec.getElem_or, BitVec.getElem_and, BitVec.getElem_not]
  cases m[i] <;> simp

/-- Putting parts into a byte by two disjoint masks is the same in either order. -/
theorem merge_comm {m n : Byte} (h : m &&& n = 0) (b c d : Byte) :
    (((b &&& ~~~m) ||| (c &&& m)) &&& ~~~n) ||| (d &&& n) = (((b &&& ~~~n) ||| (d &&& n)) &&& ~~~m) ||| (c &&& m) := by
  ext i hi
  have hbit : (m[i] && n[i]) = false := by
    rw [← BitVec.getElem_and, h]
    exact BitVec.getElem_zero hi
  simp only [BitVec.getElem_or, BitVec.getElem_and, BitVec.getElem_not]
  cases hm : m[i] <;> cases hn : n[i] <;> simp_all

theorem maskedValue_eq_iff (a b m : Byte) : maskedValue a m = maskedValue b m ↔ a &&& m = b &&& m := by
  refine ⟨fun h => ?_, fun h => by rw [maskedValue, maskedValue, h]⟩
  rw [← maskedValue_shiftLeft_ctz, h, maskedValue_shiftLeft_ctz]

theorem packField_maskedValue (b m : Byte) : packField b m (maskedValue b m) = b := by
  rw [packField, maskedValue_shiftLeft_ctz, and_not_or_and]

section Packed

variable {m v : Byte} (h : contiguous m = true) (hv : v.toNat < 2 ^ popcount m)
include h hv

theorem packField_and_not_mask (b : Byte) : packField b m v &&& ~~~m = b &&& ~~~m := by
  rw [packField_eq_merge b h hv, merge_and_not_mask]

theorem maskedValue_packField (b : Byte) : maskedValue (packField b m v) m = v := by
  rw [maskedValue, packField_eq_merge b h hv, merge_and_mask, shiftLeft_ctz_and_mask h hv,
    shiftLeft_shiftRight_ctz h hv]

theorem maskedValue_packField_disjoint (b : Byte) {n : Byte} (hmn : m &&& n = 0) :
    maskedValue (packField b m v) n = maskedValue b n := by
  have hzero : n &&& m = 0#8 := (BitVec.and_comm n m).trans hmn
  have hout : ~~~m &&& n = n := by
    have hsplit := and_not_or_and n m
    rwa [hzero, BitVec.or_zero, BitVec.and_comm] at hsplit
  rw [maskedValue_eq_iff, ← hout, ← BitVec.and_assoc, packField_and_not_mask h hv, BitVec.and_assoc]

theorem packField_packField (b w : Byte) : packField (packField b m v) m w = packField b m w := by
  rw [packField, packField_and_not_mask h hv, ← packField]

theorem packField_comm (b : Byte) {n w : Byte} (hn : contiguous n = true) (hw : w.toNat < 2 ^ popcount n)
    (hmn : m &&& n = 0) : packField (packField b m v) n w = packField (packField b n w) m v := by
  simp only [packField_eq_merge _ h hv, packField_eq_merge _ hn hw]
  exact merge_comm hmn _ _ _

end Packed

/-! ### Fields of a run, by bit numbers -/

theorem maskedValue_runMask_toNat (b : Byte) {w l : Nat} (hw : 1 ≤ w) (h : l + w ≤ 8) :
    (maskedValue b (runMask w l)).toNat = bits b (l + w - 1) l := by
  have hwidth : l + w - 1 - l + 1 = w := by omega
  rw [maskedValue, ctz_runMask hw h, BitVec.toNat_ushiftRight, BitVec.toNat_and, runMask_toNat h,
    Nat.shiftRight_and_distrib, Nat.shiftLeft_shiftRight, Nat.and_two_pow_sub_one_eq_mod, bits, hwidth]

theorem getLsbD_packField_runMask (b : Byte) {v : Byte} {w l i : Nat} (hw : 1 ≤ w) (h : l + w ≤ 8)
    (hv : v.toNat < 2 ^ w) (hi : i < 8) : (packField b (runMask w l) v).getLsbD i =
      if l ≤ i ∧ i < l + w then v.getLsbD (i - l) else b.getLsbD i := by
  simp only [packField, ctz_runMask hw h, BitVec.getLsbD_or, BitVec.getLsbD_and, BitVec.getLsbD_not,
    BitVec.getLsbD_shiftLeft, getLsbD_runMask h]
  split
  case isTrue hin => simp [hin, hi]
  case isFalse hout =>
    have hzero : ¬i < l → v.getLsbD (i - l) = false := fun hl =>
      Nat.testBit_lt_two_pow (hv.trans_le (Nat.pow_le_pow_right two_pos (by omega)))
    by_cases hl : i < l
    · simp [hout, hi, hl]
    · simp [hout, hi, hl, hzero hl]

/-! ### What the two operations answer -/

theorem fldGet_of_not_contiguous (b : Byte) {m : Byte} (h : contiguous m = false) : fldGet b m = .error maskError := by
  rw [fldGet, h]
  rfl

theorem exec_fldGet_of_contiguous (b : Byte) {m : Byte} (h : contiguous m = true) (s : State) :
    exec (.fldGet b m) s = .next (s.setResponse (some (.ok (.value (maskedValue b m))))) := by
  rw [exec_eq_respond, execResponse, execResult, fldGet, if_pos h]
  rfl

theorem exec_fldGet_of_not_contiguous (b : Byte) {m : Byte} (h : contiguous m = false) (s : State) :
    exec (.fldGet b m) s = .next (s.setResponse (some (.error ⟨.E_MASK, 0xFF⟩))) := by
  rw [exec_eq_respond, execResponse, execResult, fldGet_of_not_contiguous b h]
  rfl

theorem exec_fldSet_of_fits (b : Byte) {m v : Byte} (h : contiguous m = true) (hv : v.toNat < 2 ^ popcount m)
    (s : State) : exec (.fldSet b m v) s = .next (s.setResponse (some (.ok (.byte (packField b m v))))) := by
  rw [exec_eq_respond, execResponse, execResult, fldSet, if_pos h, if_neg (not_lt.mpr (Nat.le_sub_one_of_lt hv))]
  rfl

theorem exec_fldSet_of_too_big (b : Byte) {m v : Byte} (h : contiguous m = true) (hv : 2 ^ popcount m ≤ v.toNat)
    (s : State) : exec (.fldSet b m v) s = .next (s.setResponse (some (.error ⟨.E_RANGE, 0xFF⟩))) := by
  have hbig : v.toNat > 2 ^ popcount m - 1 := (Nat.sub_one_lt (Nat.two_pow_pos _).ne').trans_le hv
  rw [exec_eq_respond, execResponse, execResult, fldSet, if_pos h, if_pos hbig]
  rfl

theorem exec_fldSet_of_not_contiguous (b v : Byte) {m : Byte} (h : contiguous m = false) (s : State) :
    exec (.fldSet b m v) s = .next (s.setResponse (some (.error ⟨.E_MASK, 0xFF⟩))) := by
  rw [exec_eq_respond, execResponse, execResult, fldSet_of_not_contiguous b v h]
  rfl

/-- FLD.GET tells two bytes apart by the bits under the mask only. -/
theorem exec_fldGet_eq_iff {a b m : Byte} (h : contiguous m = true) (s : State) :
    exec (.fldGet a m) s = exec (.fldGet b m) s ↔ a &&& m = b &&& m := by
  rw [← maskedValue_eq_iff, exec_fldGet_of_contiguous a h, exec_fldGet_of_contiguous b h]
  refine ⟨fun heq => ?_, fun heq => by rw [heq]⟩
  exact Result.value.inj (Response.ok.inj (Option.some.inj (congrArg responseOf heq)))

/-! ### The obligations -/

/-- Settles O32: the runs are `contiguous_iff_runMask`, their number that of the pairs of width and lowest bit. -/
theorem legalMasks : Obligations.LegalMasks := by
  refine ⟨fun m => (contiguous_iff_runMask m).trans ?_, countP_contiguous, contiguous_field⟩
  exact exists₂_congr fun w l => ⟨fun ⟨hw, hfits, hm⟩ => ⟨hw, by omega, by omega, hm⟩,
    fun ⟨hw, hw8, hl, hm⟩ => ⟨hw, by omega, hm⟩⟩

/-- Settles O33: the masked value of a run is the number its bits spell; no other mask is legal. -/
theorem fldGetReadsField : Obligations.FldGetReadsField :=
  ⟨fun _ _ _ => rfl,
    fun b _ _ s hw hfits => ⟨_, exec_fldGet_of_contiguous b (contiguous_runMask hw hfits) s,
      maskedValue_runMask_toNat b hw hfits⟩,
    fun b _ s hm => exec_fldGet_of_not_contiguous b (not_contiguous_of_ne_runMask hm) s⟩

/-- Settles O34: FLD.SET of a run by its bits; its width is the popcount that bounds V8. -/
theorem fldSetWritesField : Obligations.FldSetWritesField := by
  refine ⟨fun _ _ _ _ => rfl, fun b v w l s hw hfits hv => ?_, fun b v w l s hw hfits hv => ?_,
    fun b m v s hm => exec_fldSet_of_not_contiguous b v (not_contiguous_of_ne_runMask hm) s⟩
  · refine ⟨_, exec_fldSet_of_fits b (contiguous_runMask hw hfits) ?_ s, fun i =>
      getLsbD_packField_runMask b hw hfits hv⟩
    rwa [popcount_runMask hfits]
  · refine exec_fldSet_of_too_big b (contiguous_runMask hw hfits) ?_ s
    rwa [popcount_runMask hfits]

/-- Settles O35: the packed byte, which keeps the bits outside its mask and so every disjoint field. -/
theorem fieldIsolation : Obligations.FieldIsolation := by
  intro b m v s hm hv
  refine ⟨_, exec_fldSet_of_fits b hm hv s, packField_and_not_mask hm hv b, ?_, fun n hn hmn => ?_⟩
  · rw [exec_fldGet_of_contiguous _ hm, maskedValue_packField hm hv]
  · rw [exec_fldGet_of_contiguous _ hn, exec_fldGet_of_contiguous _ hn, maskedValue_packField_disjoint hm hv b hmn]

/-- Settles O36: each law is one of `packField`; a byte is put together of its fields at M and ~M. -/
theorem fieldLaws : Obligations.FieldLaws := by
  refine ⟨fun b m s hm => ?_, fun b m v w s hm hv hw => ?_, fun b m n v w s hm hn hmn hv hw => ?_,
    fun a b m s hm hnot hin hout => ?_⟩
  · refine ⟨_, exec_fldGet_of_contiguous b hm s, ?_, (packField_maskedValue b m).symm⟩
    rw [exec_fldSet_of_fits b hm (maskedValue_lt b hm), packField_maskedValue]
  · refine ⟨_, exec_fldSet_of_fits b hm hv s, ?_⟩
    rw [exec_fldSet_of_fits _ hm hw, exec_fldSet_of_fits _ hm hw, packField_packField hm hv]
  · refine ⟨_, _, exec_fldSet_of_fits b hm hv s, exec_fldSet_of_fits b hn hw s, ?_⟩
    rw [exec_fldSet_of_fits _ hn hw, exec_fldSet_of_fits _ hm hv, packField_comm hm hv b hn hw hmn]
  · rw [← and_not_or_and a m, (exec_fldGet_eq_iff hm s).mp hin, (exec_fldGet_eq_iff hnot s).mp hout, and_not_or_and]

/-- Settles O37: `exec` asks for a legal mask and a value that fits, which every field of the table has. -/
theorem accessRightsNotEnforced : Obligations.AccessRightsNotEnforced := by
  intro f b v s hv
  obtain ⟨r, hset, -, hget, -⟩ := fieldIsolation b f.mask v s (contiguous_field f) (popcount_field f ▸ hv)
  exact ⟨r, hset, hget⟩

/-- Setting one field of the table leaves every field that shares no bit with it. -/
theorem set_field_keeps_disjoint {f g : ChipField} (hfg : f.mask &&& g.mask = 0) {v : Byte}
    (hv : v.toNat < 2 ^ popcount f.mask) (b : Byte) (s : State) : ∃ r : Byte,
      exec (.fldSet b f.mask v) s = .next (s.setResponse (some (.ok (.byte r)))) ∧
      exec (.fldGet r f.mask) s = .next (s.setResponse (some (.ok (.value v)))) ∧
      exec (.fldGet r g.mask) s = exec (.fldGet b g.mask) s := by
  obtain ⟨r, hset, -, hget, hkeep⟩ := fieldIsolation b f.mask v s (contiguous_field f) hv
  exact ⟨r, hset, hget, hkeep g.mask (contiguous_field g) hfg⟩

/-- Settles O38: two flags of one register are two fields of it that share no bit. -/
theorem changingAFlagKeepsTheOthers : Obligations.ChangingAFlagKeepsTheOthers := by
  refine ⟨fun f g b v s hne hv => set_field_keeps_disjoint ?_ hv b s,
    fun f g b v s hne hv => set_field_keeps_disjoint ?_ hv b s⟩
  · exact field_disjoint (mt StatusFlag.field_injective hne) (f.field_reg.trans g.field_reg.symm) f.field_ne_half
      g.field_ne_half
  · exact field_disjoint (mt ControlFlag.field_injective hne) (f.field_reg.trans g.field_reg.symm) f.field_ne_half
      g.field_ne_half

end Sys2Proof.Machine
end

section
/-! Proofs: the errors each operation raises, by name and INFO (60_exceptions.md R201 to R203). -/

namespace Sys2Proof.Machine

/-! ### An error response is the codec's own error -/

theorem responseFrom_eq_error_iff {r : Except CodecError Result} {e : CodecError} :
    responseFrom r = .error e ↔ r = .error e := by
  cases r <;> simp [responseFrom]

theorem map_eq_error_iff {α β : Type} {r : Except CodecError α} {f : α → β} {e : CodecError} :
    r.map f = .error e ↔ r = .error e := by
  cases r <;> simp [Except.map]

theorem responseOf_exec_eq_error_iff {i : Instr} {s : State} {e : CodecError} :
    responseOf (exec i s) = some (.error e) ↔ execResult s.epochBase s.hour12Policy i = .error e := by
  rw [responseOf_exec, Option.some.injEq, execResponse, responseFrom_eq_error_iff]

/-! ### The codecs that check once -/

theorem bcdEnc_eq_error_iff {v : Int} {e : CodecError} :
    bcdEnc v = .error e ↔ (v < 0 ∨ 99 < v) ∧ e = ⟨.E_RANGE, 0xFF⟩ := by
  unfold bcdEnc
  split
  case isTrue h => exact ⟨fun he => ⟨h, (Except.error.inj he).symm⟩, fun ⟨_, he⟩ => congrArg _ he.symm⟩
  case isFalse h => exact ⟨nofun, fun ⟨hv, _⟩ => absurd hv h⟩

theorem fldGet_eq_error_iff {b m : Byte} {e : CodecError} :
    fldGet b m = .error e ↔ contiguous m = false ∧ e = ⟨.E_MASK, 0xFF⟩ := by
  cases hm : contiguous m with
  | true => simp [fldGet, hm]
  | false => simp [fldGet_of_not_contiguous b hm, maskError, infoNone, eq_comm]

/-- 42_field.md R161: the mask is checked first, then the width of V8. -/
theorem fldSet_eq_error_iff {b m v : Byte} {e : CodecError} : fldSet b m v = .error e ↔
    contiguous m = false ∧ e = ⟨.E_MASK, 0xFF⟩ ∨
      contiguous m = true ∧ 2 ^ popcount m - 1 < v.toNat ∧ e = ⟨.E_RANGE, 0xFF⟩ := by
  cases hm : contiguous m with
  | true => by_cases hv : 2 ^ popcount m - 1 < v.toNat <;> simp [fldSet, hm, hv, rangeError, infoNone, eq_comm]
  | false => simp [fldSet_of_not_contiguous b v hm, maskError, infoNone, eq_comm]

/-! ### The date codecs: a sequence of checks -/

/-- Every error a codec can raise meets `E`. -/
def ErrorsMeet {α : Type} (E : CodecError → Prop) (r : Except CodecError α) : Prop := ∀ e, r = .error e → E e

theorem errorsMeet_ok {α : Type} {E : CodecError → Prop} (a : α) : ErrorsMeet E (.ok a) := nofun

theorem errorsMeet_error {α : Type} {E : CodecError → Prop} {e : CodecError} (h : E e) :
    ErrorsMeet E (.error e : Except CodecError α) := by
  rintro _ ⟨⟩
  exact h

/-- A sequence ends with an error of its first part or of the rest (60_exceptions.md R200). -/
theorem errorsMeet_bind {α β : Type} {E : CodecError → Prop} {r : Except CodecError α} {f : α → Except CodecError β}
    (hr : ErrorsMeet E r) (hf : ∀ a, ErrorsMeet E (f a)) : ErrorsMeet E (r >>= f) := by
  cases r with
  | ok a => exact hf a
  | error e => exact errorsMeet_error (hr e rfl)

theorem errorsMeet_map {α β : Type} {E : CodecError → Prop} {r : Except CodecError α} {f : α → β}
    (h : ErrorsMeet E r) : ErrorsMeet E (r.map f) :=
  fun e he => h e (map_eq_error_iff.mp he)

/-- The errors of 60_exceptions.md R203 for DT.DEC: the weekday has no digit to fail, the year no range. -/
def DtDecError (e : CodecError) : Prop :=
  e.code = .E_DIGIT ∧ e.info.toNat ≤ 6 ∧ e.info ≠ 3 ∨ e.code = .E_FIELD ∧ e.info.toNat ≤ 5 ∨ e = ⟨.E_MODE12, 2⟩

theorem dtDecError_digitError : ∀ i ≤ 6, i ≠ 3 → DtDecError (digitError i) := by
  unfold DtDecError
  decide

theorem dtDecError_fieldError : ∀ i ≤ 5, DtDecError (fieldError i) := by
  unfold DtDecError
  decide

theorem decDigits_errors {i : Nat} (hle : i ≤ 6) (hne : i ≠ 3) (t o : Nat) :
    ErrorsMeet DtDecError (decDigits i t o) := by
  unfold decDigits
  split
  · exact errorsMeet_ok _
  · exact errorsMeet_error (dtDecError_digitError i hle hne)

theorem inRange_errors {i : Nat} (h : i ≤ 5) (lo hi v : Nat) : ErrorsMeet DtDecError (inRange i lo hi v) := by
  unfold inRange
  split
  · exact errorsMeet_error (dtDecError_fieldError i h)
  · exact errorsMeet_ok _

/-- A two-digit register with a range of its own: any but the weekday's and the year's. -/
theorem decTwoDigits_errors {i hi lo top : Nat} {b : Byte} (hle : i ≤ 5) (hne : i ≠ 3) :
    ErrorsMeet DtDecError (decTwoDigits i hi lo top b) :=
  errorsMeet_bind (decDigits_errors (by omega) hne _ _) fun _ => inRange_errors hle _ _ _

theorem decHour_errors (policy : Hour12Policy) (b : Byte) : ErrorsMeet DtDecError (decHour policy b) := by
  unfold decHour
  split
  · cases policy with
    | RESOLVE =>
      rw [decHour12Resolve_eq]
      exact errorsMeet_map (decTwoDigits_errors (by decide) (by decide))
    | REJECT => exact errorsMeet_error (.inr (.inr rfl))
    | SOURCE => exact decDigits_errors (by decide) (by decide) _ _
  · rw [decHour24_eq]
    exact decTwoDigits_errors (by decide) (by decide)

theorem decWday_errors (b : Byte) : ErrorsMeet DtDecError (decWday b) := by
  unfold decWday
  split
  · exact errorsMeet_error (dtDecError_fieldError 3 (by decide))
  · exact errorsMeet_ok _

theorem decYear_errors (epoch : EpochBase) (b : Byte) : ErrorsMeet DtDecError (decYear epoch b) := by
  rw [decYear_eq]
  exact errorsMeet_map (decDigits_errors (by decide) (by decide) _ _)

/-- Each of the seven registers in sequence (41_datetime.md R120). -/
theorem dtDec_errors (epoch : EpochBase) (policy : Hour12Policy) (p : PackedDate) :
    ErrorsMeet DtDecError (dtDec epoch policy p) := by
  rw [dtDec, decSec_eq, decMin_eq, decDay_eq, decMonth_eq]
  exact errorsMeet_bind (decTwoDigits_errors (by decide) (by decide)) fun _ =>
    errorsMeet_bind (decTwoDigits_errors (by decide) (by decide)) fun _ =>
    errorsMeet_bind (decHour_errors policy _) fun _ => errorsMeet_bind (decWday_errors _) fun _ =>
    errorsMeet_bind (decTwoDigits_errors (by decide) (by decide)) fun _ =>
    errorsMeet_bind (decTwoDigits_errors (by decide) (by decide)) fun _ =>
    errorsMeet_bind (decYear_errors epoch _) fun _ => errorsMeet_ok _

/-- The errors of 60_exceptions.md R203 for DT.ENC: every field has a range. -/
def DtEncError (e : CodecError) : Prop := e.code = .E_RANGE ∧ e.info.toNat ≤ 6

theorem dtEncError_rangeErrorAt : ∀ i ≤ 6, DtEncError (rangeErrorAt i) := by
  unfold DtEncError
  decide

theorem checkRange_errors {i : Nat} (h : i ≤ 6) (lo hi v : Nat) : ErrorsMeet DtEncError (checkRange i lo hi v) := by
  unfold checkRange
  split
  · exact errorsMeet_error (dtEncError_rangeErrorAt i h)
  · exact errorsMeet_ok _

/-- Seven range checks in sequence (41_datetime.md R134). -/
theorem dtEnc_errors (epoch : EpochBase) (t : CalendarTime) : ErrorsMeet DtEncError (dtEnc epoch t) := by
  refine errorsMeet_bind (checkRange_errors ?_ _ _ _) fun _ => errorsMeet_bind (checkRange_errors ?_ _ _ _) fun _ =>
    errorsMeet_bind (checkRange_errors ?_ _ _ _) fun _ => errorsMeet_bind (checkRange_errors ?_ _ _ _) fun _ =>
    errorsMeet_bind (checkRange_errors ?_ _ _ _) fun _ => errorsMeet_bind (checkRange_errors ?_ _ _ _) fun _ =>
    errorsMeet_bind (checkRange_errors ?_ _ _ _) fun _ => errorsMeet_ok _
  all_goals decide

/-! ### The obligation -/

/-- Settles O43: an error response is the codec's error, and each codec's checks say which one. -/
theorem errorsOfEachOperation : Obligations.ErrorsOfEachOperation := by
  intro i s e h
  rw [responseOf_exec_eq_error_iff] at h
  cases i with
  | bcdEnc v => exact bcdEnc_eq_error_iff.mp (map_eq_error_iff.mp h)
  | bcdDec t o => cases h
  | dtDec p => exact dtDec_errors _ _ p e (map_eq_error_iff.mp h)
  | dtEnc t => exact dtEnc_errors _ t e (map_eq_error_iff.mp h)
  | fldGet b m => exact fldGet_eq_error_iff.mp (map_eq_error_iff.mp h)
  | fldSet b m v => exact fldSet_eq_error_iff.mp (map_eq_error_iff.mp h)

end Sys2Proof.Machine
end

section
/-! Proofs: the parameters of the block, the state after reset and the launch of a host program
(70_reset_and_hazards.md R230 to R232, R244). -/

namespace Sys2Proof.Machine

/-! ### The parameters of the block -/

/-- EPOCH_BASE and HOUR12_POLICY are the same in `s` and `t` (00_scope.md R5). -/
def SameParameters (s t : State) : Prop := t.epochBase = s.epochBase ∧ t.hour12Policy = s.hour12Policy

theorem blockStep_sameParameters {s t : State} (h : blockStep s = .next t) : SameParameters s t := by
  rcases blockStep_next h with ⟨i, rest, -, rfl⟩ | ⟨op, rest, -, rfl⟩ <;> exact ⟨rfl, rfl⟩

theorem hostLine_sameParameters {a : HostLine} {s t : State} (h : hostLine a s = .next t) : SameParameters s t := by
  cases hostLine_next h with
  | _ => subst t; exact ⟨by simp, by simp⟩

theorem hostStep_sameParameters {s t : State} (h : hostStep s = .next t) : SameParameters s t := by
  rcases hostStep_next h with rfl | ⟨x, r, -, -, rfl⟩ | ⟨a, -, -, hline⟩
  · exact ⟨rfl, rfl⟩
  · exact ⟨by simp [State.take], by simp [State.take]⟩
  · exact hostLine_sameParameters hline

/-- Settles O45: neither the block nor any line of the host writes a parameter. -/
theorem parametersNeverChange : Obligations.ParametersNeverChange := by
  refine ⟨fun s t h => ?_, rfl⟩
  by_cases hreq : s.request = []
  · exact hostStep_sameParameters (step_of_no_request hreq ▸ h)
  · exact blockStep_sameParameters (step_of_request hreq ▸ h)

/-! ### Reset -/

/-- 70_reset_and_hazards.md R232: each chip register powers up at its own free value. -/
theorem chipByte_reset {a : Nat} (h : a < 19) : chipByte State.reset.chip a = some (Config.chipPowerUp a) := by
  simp [chipByte, State.reset, h]

/-- 20_memory.md R52: a frame presented at an empty port is performed, and the port is empty again. -/
theorem step_setRequest_encode {s : State} {i : Instr} (hreq : s.request = []) (wf : i.WellFormed) :
    step (s.setRequest (encode i)) = exec i s := by
  have hd : decode (s.setRequest (encode i)).request = .request i [] := by
    simpa using decode_encode_append wf []
  have hport : (s.setRequest (encode i)).setRequest [] = s := by
    rw [← hreq]
    rfl
  rw [step_of_decoded hd, hport]

/-- Settles O46: the fields of `State.reset`, and one step at a frame presented to its empty port. -/
theorem resetState : Obligations.ResetState :=
  ⟨rfl, rfl, rfl, rfl, fun _ => chipByte_reset, fun _ => step_setRequest_encode rfl⟩

/-- Settles O48: after reset no response is given and no name is bound. -/
theorem resetIsLegal : Obligations.ResetIsLegal :=
  (legal_iff State.reset).mpr ⟨.nil, nofun, nofun⟩

/-! ### Launch -/

/-- Settles O50: a launch empties the request port and leaves the host running, so it waits for nothing. -/
theorem launchIsInTurn : Obligations.LaunchIsInTurn := fun _ _ => inTurn_of_not_awaiting rfl nofun

end Sys2Proof.Machine
end
